-- ==== Sys2Proof/Word.lean ====
section
/-! DEFINITION. The two word types of the block (00_scope.md R2): a byte of 8 bits and a word of 16 bits.
Their `+` and `-` wrap modulo 2^8 and 2^16, as rule R3 asks. -/

namespace Sys2Proof

/-- A byte: a data register, a memory cell, an opcode, an operand byte (R2). -/
abbrev Byte := BitVec 8

/-- A word: PC, SP, a register-pair view, an address (R2). -/
abbrev Word := BitVec 16

end Sys2Proof
end

