-- ==== Sys2Proof/Config.lean ====
section
/-! DEFINITION. The parameters of 00_scope.md R4. The sizes are fixed by the address map; `ROM_WRITES` is OPEN
(92_eei_decisions.md D9) and has no value here. `INIT_RAM` is an argument of `State.resetWith`
(Machine/HostMoves.lean), and `CYCLES` is the table of Machine/Cycles.lean. -/

namespace Sys2Proof

/-- What a write to the ROM window does (R63): `store` writes the array, `discard` does nothing. -/
inductive RomWrites where
  | store
  | discard
deriving DecidableEq, Repr, Inhabited

/-- `ROM_WRITES` (R4, D9): OPEN, so it has no value that a proof could use. Log entry 1. -/
opaque Config.romWrites : RomWrites

/-- `ROM_SIZE` (R4): 32 KiB. -/
def Config.romSize : Nat := 0x8000

/-- `VRAM_SIZE`, `ERAM_SIZE` and `WRAM_SIZE` (R4). -/
def Config.ramSize : Nat := 0x2000

/-- `OAM_SIZE` (R4). -/
def Config.oamSize : Nat := 0xA0

/-- `HRAM_SIZE` (R4). -/
def Config.hramSize : Nat := 0x80

end Sys2Proof
end

