-- ==== Sys2Proof/Machine/Bits.lean ====
section
/-! DEFINITION. The bit-level helpers of 00_scope.md section 5: the halves of a word, `hi:lo`, `sext_16`, `zext_16`
and `bool(c)`. -/

namespace Sys2Proof.Machine

/-- `hi:lo`, the word `hi * 256 + lo`. -/
def wordOf (hi lo : Byte) : Word := hi ++ lo

/-- `w[15:8]`. -/
def hiByte (w : Word) : Byte := w.extractLsb' 8 8

/-- `w[7:0]`. -/
def loByte (w : Word) : Byte := w.extractLsb' 0 8

/-- `sext_16(v)`: the byte read as two's complement, widened to 16 bits (R86). -/
def sext16 (v : Byte) : Word := v.signExtend 16

/-- `zext_16(v)`: the byte as a 16-bit value. -/
def zext16 (v : Byte) : Word := v.setWidth 16

end Sys2Proof.Machine
end

