-- ==== Sys2Proof/Machine/Memory.lean ====
section
/-! DEFINITION. The memory cells, the address map and the bus operations (20_memory.md).

The six arrays of R33 are one list of (address, byte) pairs. A cell is keyed by the address at which its array lies in
the map of R51 (its home), so an Echo address has the key of the WRAM byte it shares, and a key is a plain number. The
list is in one canonical form: keys strictly rising, each the home of a cell, no byte equal to 0x00, which is what an
unlisted cell reads as. -/

namespace Sys2Proof.Machine

/-- The contents of the six arrays, as the cells that do not hold 0x00. -/
abbrev Memory := List Host.Cell

/-! ### The cells -/

/-- What an unlisted cell reads as: 0x00. For ROM the spec says so (R52). For the RAM arrays it only says how the list
is written down: any contents of RAM are some list. -/
def unlistedByte : Byte := 0x00

/-- The byte of the cell with key `k`. -/
def Memory.lookup : Memory → Nat → Byte
  | [], _ => unlistedByte
  | cell :: rest, k => if cell.1 = k then cell.2 else Memory.lookup rest k

/-- The list without the key `k`. -/
def Memory.erase (m : Memory) (k : Nat) : Memory := m.filter (fun cell => cell.1 != k)

/-- The cell put before the first larger key. -/
def Memory.insertCell (k : Nat) (v : Byte) : Memory → Memory
  | [] => [(k, v)]
  | cell :: rest => if k < cell.1 then (k, v) :: cell :: rest else cell :: Memory.insertCell k v rest

/-- The cell with key `k` set to `v`; storing what an unlisted cell reads as removes the entry. -/
def Memory.store (m : Memory) (k : Nat) (v : Byte) : Memory :=
  if v = unlistedByte then Memory.erase m k else Memory.insertCell k v (Memory.erase m k)

/-! ### The address map -/

/-- The region of an address with the index into its array (R51). Echo addresses are WRAM cells; Unusable and IO own
no cell. -/
inductive Region where
  | rom (i : Nat)
  | vram (i : Nat)
  | eram (i : Nat)
  | wram (i : Nat)
  | oam (i : Nat)
  | hram (i : Nat)
  | unusable
  | io
deriving DecidableEq, Repr

/-- `region(a)` of R51, the one function that every bus operation uses (R66). -/
def region (a : Word) : Region :=
  let n := a.toNat
  if n ≤ 0x7FFF then .rom n
  else if n ≤ 0x9FFF then .vram (n - 0x8000)
  else if n ≤ 0xBFFF then .eram (n - 0xA000)
  else if n ≤ 0xDFFF then .wram (n - 0xC000)
  else if n ≤ 0xFDFF then .wram (n - 0xE000)
  else if n ≤ 0xFE9F then .oam (n - 0xFE00)
  else if n ≤ 0xFEFF then .unusable
  else if n ≤ 0xFF7F then .io
  else .hram (n - 0xFF80)

/-- The key of a region's cell: the array's place in the map plus the index. -/
def Region.key : Region → Option Nat
  | .rom i => some i
  | .vram i => some (0x8000 + i)
  | .eram i => some (0xA000 + i)
  | .wram i => some (0xC000 + i)
  | .oam i => some (0xFE00 + i)
  | .hram i => some (0xFF80 + i)
  | .unusable => none
  | .io => none

/-- The cell an address reaches, if it reaches one. -/
def cellOf (a : Word) : Option Nat := (region a).key

/-- Whether a number is the home of a cell of one of the six arrays (R33, R51). -/
def isHome (k : Nat) : Bool :=
  k < 0xE000 || (0xFE00 ≤ k && k < 0xFE00 + Config.oamSize) || (0xFF80 ≤ k && k < 0xFF80 + Config.hramSize)

/-- The canonical form: keys strictly rising, every key a home, no listed byte equal to the unlisted one. -/
def Memory.wf (m : Memory) : Bool :=
  decide (m.Pairwise (fun x y => x.1 < y.1)) && m.all (fun cell => isHome cell.1 && cell.2 != unlistedByte)

/-! ### The bus operations -/

/-- `read_byte(a)` of R61: total; 0x00 for Unusable and IO (R58, R59). -/
def Memory.readByte (m : Memory) (a : Word) : Byte :=
  match cellOf a with
  | some k => Memory.lookup m k
  | none => 0x00

/-- `read_word(a)` of R62: little-endian, the second address modulo 2^16, each byte by its own region. -/
def Memory.readWord (m : Memory) (a : Word) : Word :=
  wordOf (Memory.readByte m (a + 1)) (Memory.readByte m a)

/-- `write_byte(a, v)` of R63 under a given ROM write policy. -/
def Memory.writeByte (policy : RomWrites) (m : Memory) (a : Word) (v : Byte) : Memory :=
  match region a with
  | .rom i =>
    match policy with
    | .store => Memory.store m i v
    | .discard => m
  | .vram i => Memory.store m (0x8000 + i) v
  | .eram i => Memory.store m (0xA000 + i) v
  | .wram i => Memory.store m (0xC000 + i) v
  | .oam i => Memory.store m (0xFE00 + i) v
  | .hram i => Memory.store m (0xFF80 + i) v
  | .unusable => m
  | .io => m

/-- `get_mutable_byte(a)` of R64: the cell of a backed address; `none` is the InvalidMutableAccess failure, on exactly
the addresses without a cell (92_eei_decisions.md D10). -/
def getMutableByte (a : Word) : Option Nat := cellOf a

/-- The memory with every ROM byte 0x00. -/
def Memory.clearRom (m : Memory) : Memory := m.filter (fun cell => decide (Config.romSize ≤ cell.1))

/-- The array copy of `load` (R65) from ROM index `i` on: it stops at the end of ROM and does not look at the ROM write
policy. -/
def Memory.loadFrom (i : Nat) : List Byte → Memory → Memory
  | [], m => m
  | v :: rest, m => if i < Config.romSize then Memory.loadFrom (i + 1) rest (Memory.store m i v) else m

end Sys2Proof.Machine
end

