-- ==== Sys2Proof/Machine/State.lean ====
section
/-! DEFINITION. The state of the block (10_state.md): a value of the block's type is this whole record. -/

namespace Sys2Proof.Machine

/-- The four flags of F (R23), stored as four bits (R24). `packFlags` (Flags.lean) gives the byte. -/
structure Flags where
  z : Bool
  n : Bool
  h : Bool
  c : Bool
deriving DecidableEq, Repr

/-- The three failures with what they record (R240). `step` answers one, as its only fault, when the fault status
already holds it (R246). Stopping there is the spec's own behaviour ("any later step changes nothing and returns the
failure again"), so each is safe. -/
inductive Fault where
  /-- Code 1. Recorded when a reserved opcode of R89 is executed (R241): the opcode's address and byte. Safe. -/
  | illegalOpcode (pc : Word) (opcode : Byte)
  /-- Code 2. Recorded when an unimplemented opcode of R90 is executed (R242): the opcode's address and byte. Safe. -/
  | unimplementedOpcode (pc : Word) (opcode : Byte)
  /-- Code 3. Recorded by INC (HL) and DEC (HL) when HL has no cell (R243): that address and the opcode's address.
  Safe. -/
  | invalidMutableAccess (address pc : Word)
deriving DecidableEq, Repr

/-- Why a step gives an instruction no meaning. -/
inductive Refusal where
  /-- An instruction whose arm in Dispatch.lean has no meaning yet. No arm answers it. Safe: nothing follows from a
  refused step. -/
  | notModelled (mnemonic : String)
deriving DecidableEq, Repr

/-- The fault status (R32). -/
inductive Status where
  | running
  | failed (f : Fault)
deriving DecidableEq, Repr

/-- The whole state: seven data registers (R20), the flags (R23), PC (R29), SP (R30), IME (R31), the fault status (R32)
and the memory arrays (R33). -/
structure State where
  a : Byte
  f : Flags
  b : Byte
  c : Byte
  d : Byte
  e : Byte
  h : Byte
  l : Byte
  pc : Word
  sp : Word
  ime : Bool
  status : Status
  mem : Memory
deriving DecidableEq, Repr

/-- What executing an instruction gives. -/
abbrev Result := Host.Outcome State Fault Refusal

/-- The state after reset (R35, R270) with every byte of `INIT_RAM` 0x00, the draw that R270 gives a deterministic
simulator (log entry 2). ROM is 0x00 (R52) and so is 0xFFFF (R270). -/
def State.reset : State where
  a := 0x01
  f := { z := true, n := false, h := true, c := true }
  b := 0x00
  c := 0x13
  d := 0x00
  e := 0xD8
  h := 0x01
  l := 0x4D
  pc := 0x0100
  sp := 0xFFFE
  ime := false
  status := .running
  mem := []

end Sys2Proof.Machine
end

