-- ==== Sys2Proof/Syntax.lean ====
section
/-! DEFINITION. The syntax of the block: the operand sets and the term type of 30_encoding.md R94, and `Instr`, one
constructor per mnemonic of spec/opcode_table.json, with the term each constructor stands for.

The table has one row per opcode byte. A decoded row is a constructor whose arguments are the operand bytes that
follow the opcode (`n` an immediate byte, `e` the raw displacement byte, `nn` an immediate word). The 11 rows ILLEGAL
and the 74 rows UNIMPLEMENTED share a mnemonic each, so each of the two is one constructor that carries the opcode. -/

namespace Sys2Proof

/-- The seven data registers (R20, R94). -/
inductive Reg8 where
  | a | b | c | d | e | h | l
deriving DecidableEq, Repr

/-- The 16-bit targets: three pair views and SP (R83, R94). -/
inductive Reg16 where
  | bc | de | hl | sp
deriving DecidableEq, Repr

/-- The four jump conditions (R84, R94). -/
inductive Cond where
  | nz | z | nc | c
deriving DecidableEq, Repr

/-- The byte-in-memory operands of R94: MemBC, MemDE, MemHL, MemHLI, MemHLD, MemFF00C and MemAbs. -/
inductive Mem8 where
  | bc | de | hl | hlInc | hlDec | highC
  | abs (nn : Word)
deriving DecidableEq, Repr

/-- `Src8` of R94: a byte that is read. -/
inductive Src8 where
  | reg (r : Reg8)
  | imm (n : Byte)
  | mem (m : Mem8)
deriving DecidableEq, Repr

/-- `Dst8` of R94: a byte that is written. -/
inductive Dst8 where
  | reg (r : Reg8)
  | mem (m : Mem8)
deriving DecidableEq, Repr

/-- The instruction term of R94, "a closed tagged union over opcode families". It admits every combination of the
operand sets; `Term.wf` (WellFormed.lean) admits the decodable ones. -/
inductive Term where
  | nop
  | add (s : Src8) | adc (s : Src8) | cp (s : Src8) | or (s : Src8) | xor (s : Src8)
  | inc8 (d : Dst8) | dec8 (d : Dst8) | inc16 (p : Reg16) | dec16 (p : Reg16)
  | jp (cc : Option Cond) (nn : Word) | jpHL
  | jr (cc : Option Cond) (e : Byte)
  | ld8 (d : Dst8) (s : Src8)
  | ld16 (p : Reg16) (nn : Word)
  | rla | rra
  | di
deriving DecidableEq, Repr

/-- The three outcomes of `decode` (R88): an instruction term, or one of the two undecoded classes with its byte. -/
inductive Reading where
  | term (t : Term)
  | illegal (op : Byte)
  | unimplemented (op : Byte)
deriving DecidableEq, Repr

/-- The rows of spec/opcode_table.json. `Mem` in a name is the byte in memory at the pair that follows (`MemHLInc` is
`(HL+)`, `MemHighC` is `(C)`, `MemAbs` is `(a16)`), `Imm` is `d8`, `d16` or `a16`, `Rel` is `e8`. -/
inductive Instr where
  /-- `NOP`, 0x00, R100. -/
  | nop
  /-- `LD BC,d16`, 0x01, R197. -/
  | ldBCImm (nn : Word)
  /-- `LD (BC),A`, 0x02, R187. -/
  | ldMemBCA
  /-- `INC BC`, 0x03, R144. -/
  | incBC
  /-- `INC B`, 0x04, R142. -/
  | incB
  /-- `DEC B`, 0x05, R145. -/
  | decB
  /-- `LD B,d8`, 0x06, R183. -/
  | ldBImm (n : Byte)
  /-- `LD A,(BC)`, 0x0A, R185. -/
  | ldAMemBC
  /-- `DEC BC`, 0x0B, R147. -/
  | decBC
  /-- `INC C`, 0x0C, R142. -/
  | incC
  /-- `DEC C`, 0x0D, R145. -/
  | decC
  /-- `LD C,d8`, 0x0E, R183. -/
  | ldCImm (n : Byte)
  /-- `LD DE,d16`, 0x11, R197. -/
  | ldDEImm (nn : Word)
  /-- `LD (DE),A`, 0x12, R188. -/
  | ldMemDEA
  /-- `INC DE`, 0x13, R144. -/
  | incDE
  /-- `INC D`, 0x14, R142. -/
  | incD
  /-- `DEC D`, 0x15, R145. -/
  | decD
  /-- `LD D,d8`, 0x16, R183. -/
  | ldDImm (n : Byte)
  /-- `RLA`, 0x17, R220. -/
  | rla
  /-- `JR e8`, 0x18, R164. -/
  | jrRel (e : Byte)
  /-- `LD A,(DE)`, 0x1A, R186. -/
  | ldAMemDE
  /-- `DEC DE`, 0x1B, R147. -/
  | decDE
  /-- `INC E`, 0x1C, R142. -/
  | incE
  /-- `DEC E`, 0x1D, R145. -/
  | decE
  /-- `LD E,d8`, 0x1E, R183. -/
  | ldEImm (n : Byte)
  /-- `RRA`, 0x1F, R221. -/
  | rra
  /-- `JR NZ,e8`, 0x20, R165. -/
  | jrNZRel (e : Byte)
  /-- `LD HL,d16`, 0x21, R197. -/
  | ldHLImm (nn : Word)
  /-- `LD (HL+),A`, 0x22, R189. -/
  | ldMemHLIncA
  /-- `INC HL`, 0x23, R144. -/
  | incHL
  /-- `INC H`, 0x24, R142. -/
  | incH
  /-- `DEC H`, 0x25, R145. -/
  | decH
  /-- `LD H,d8`, 0x26, R183. -/
  | ldHImm (n : Byte)
  /-- `JR Z,e8`, 0x28, R165. -/
  | jrZRel (e : Byte)
  /-- `LD A,(HL+)`, 0x2A, R191. -/
  | ldAMemHLInc
  /-- `DEC HL`, 0x2B, R147. -/
  | decHL
  /-- `INC L`, 0x2C, R142. -/
  | incL
  /-- `DEC L`, 0x2D, R145. -/
  | decL
  /-- `LD L,d8`, 0x2E, R183. -/
  | ldLImm (n : Byte)
  /-- `JR NC,e8`, 0x30, R165. -/
  | jrNCRel (e : Byte)
  /-- `LD SP,d16`, 0x31, R197. -/
  | ldSPImm (nn : Word)
  /-- `LD (HL-),A`, 0x32, R190. -/
  | ldMemHLDecA
  /-- `INC SP`, 0x33, R144. -/
  | incSP
  /-- `INC (HL)`, 0x34, R143. -/
  | incMemHL
  /-- `DEC (HL)`, 0x35, R146. -/
  | decMemHL
  /-- `LD (HL),d8`, 0x36, R184. -/
  | ldMemHLImm (n : Byte)
  /-- `JR C,e8`, 0x38, R165. -/
  | jrCRel (e : Byte)
  /-- `LD A,(HL-)`, 0x3A, R192. -/
  | ldAMemHLDec
  /-- `DEC SP`, 0x3B, R147. -/
  | decSP
  /-- `INC A`, 0x3C, R142. -/
  | incA
  /-- `DEC A`, 0x3D, R145. -/
  | decA
  /-- `LD A,d8`, 0x3E, R183. -/
  | ldAImm (n : Byte)
  /-- `LD B,B`, 0x40, R180. -/
  | ldBB
  /-- `LD B,C`, 0x41, R180. -/
  | ldBC
  /-- `LD B,D`, 0x42, R180. -/
  | ldBD
  /-- `LD B,E`, 0x43, R180. -/
  | ldBE
  /-- `LD B,H`, 0x44, R180. -/
  | ldBH
  /-- `LD B,L`, 0x45, R180. -/
  | ldBL
  /-- `LD B,(HL)`, 0x46, R181. -/
  | ldBMemHL
  /-- `LD B,A`, 0x47, R180. -/
  | ldBA
  /-- `LD C,B`, 0x48, R180. -/
  | ldCB
  /-- `LD C,C`, 0x49, R180. -/
  | ldCC
  /-- `LD C,D`, 0x4A, R180. -/
  | ldCD
  /-- `LD C,E`, 0x4B, R180. -/
  | ldCE
  /-- `LD C,H`, 0x4C, R180. -/
  | ldCH
  /-- `LD C,L`, 0x4D, R180. -/
  | ldCL
  /-- `LD C,(HL)`, 0x4E, R181. -/
  | ldCMemHL
  /-- `LD C,A`, 0x4F, R180. -/
  | ldCA
  /-- `LD D,B`, 0x50, R180. -/
  | ldDB
  /-- `LD D,C`, 0x51, R180. -/
  | ldDC
  /-- `LD D,D`, 0x52, R180. -/
  | ldDD
  /-- `LD D,E`, 0x53, R180. -/
  | ldDE
  /-- `LD D,H`, 0x54, R180. -/
  | ldDH
  /-- `LD D,L`, 0x55, R180. -/
  | ldDL
  /-- `LD D,(HL)`, 0x56, R181. -/
  | ldDMemHL
  /-- `LD D,A`, 0x57, R180. -/
  | ldDA
  /-- `LD E,B`, 0x58, R180. -/
  | ldEB
  /-- `LD E,C`, 0x59, R180. -/
  | ldEC
  /-- `LD E,D`, 0x5A, R180. -/
  | ldED
  /-- `LD E,E`, 0x5B, R180. -/
  | ldEE
  /-- `LD E,H`, 0x5C, R180. -/
  | ldEH
  /-- `LD E,L`, 0x5D, R180. -/
  | ldEL
  /-- `LD E,(HL)`, 0x5E, R181. -/
  | ldEMemHL
  /-- `LD E,A`, 0x5F, R180. -/
  | ldEA
  /-- `LD H,B`, 0x60, R180. -/
  | ldHB
  /-- `LD H,C`, 0x61, R180. -/
  | ldHC
  /-- `LD H,D`, 0x62, R180. -/
  | ldHD
  /-- `LD H,E`, 0x63, R180. -/
  | ldHE
  /-- `LD H,H`, 0x64, R180. -/
  | ldHH
  /-- `LD H,L`, 0x65, R180. -/
  | ldHL
  /-- `LD H,(HL)`, 0x66, R181. -/
  | ldHMemHL
  /-- `LD H,A`, 0x67, R180. -/
  | ldHA
  /-- `LD L,B`, 0x68, R180. -/
  | ldLB
  /-- `LD L,C`, 0x69, R180. -/
  | ldLC
  /-- `LD L,D`, 0x6A, R180. -/
  | ldLD
  /-- `LD L,E`, 0x6B, R180. -/
  | ldLE
  /-- `LD L,H`, 0x6C, R180. -/
  | ldLH
  /-- `LD L,L`, 0x6D, R180. -/
  | ldLL
  /-- `LD L,(HL)`, 0x6E, R181. -/
  | ldLMemHL
  /-- `LD L,A`, 0x6F, R180. -/
  | ldLA
  /-- `LD (HL),B`, 0x70, R182. -/
  | ldMemHLB
  /-- `LD (HL),C`, 0x71, R182. -/
  | ldMemHLC
  /-- `LD (HL),D`, 0x72, R182. -/
  | ldMemHLD
  /-- `LD (HL),E`, 0x73, R182. -/
  | ldMemHLE
  /-- `LD (HL),H`, 0x74, R182. -/
  | ldMemHLH
  /-- `LD (HL),L`, 0x75, R182. -/
  | ldMemHLL
  /-- `LD (HL),A`, 0x77, R182. -/
  | ldMemHLA
  /-- `LD A,B`, 0x78, R180. -/
  | ldAB
  /-- `LD A,C`, 0x79, R180. -/
  | ldAC
  /-- `LD A,D`, 0x7A, R180. -/
  | ldAD
  /-- `LD A,E`, 0x7B, R180. -/
  | ldAE
  /-- `LD A,H`, 0x7C, R180. -/
  | ldAH
  /-- `LD A,L`, 0x7D, R180. -/
  | ldAL
  /-- `LD A,(HL)`, 0x7E, R181. -/
  | ldAMemHL
  /-- `LD A,A`, 0x7F, R180. -/
  | ldAA
  /-- `ADD A,B`, 0x80, R103. -/
  | addAB
  /-- `ADD A,C`, 0x81, R103. -/
  | addAC
  /-- `ADD A,D`, 0x82, R103. -/
  | addAD
  /-- `ADD A,E`, 0x83, R103. -/
  | addAE
  /-- `ADD A,H`, 0x84, R103. -/
  | addAH
  /-- `ADD A,L`, 0x85, R103. -/
  | addAL
  /-- `ADD A,(HL)`, 0x86, R104. -/
  | addAMemHL
  /-- `ADD A,A`, 0x87, R103. -/
  | addAA
  /-- `ADC A,B`, 0x88, R106. -/
  | adcAB
  /-- `ADC A,C`, 0x89, R106. -/
  | adcAC
  /-- `ADC A,D`, 0x8A, R106. -/
  | adcAD
  /-- `ADC A,E`, 0x8B, R106. -/
  | adcAE
  /-- `ADC A,H`, 0x8C, R106. -/
  | adcAH
  /-- `ADC A,L`, 0x8D, R106. -/
  | adcAL
  /-- `ADC A,(HL)`, 0x8E, R107. -/
  | adcAMemHL
  /-- `ADC A,A`, 0x8F, R106. -/
  | adcAA
  /-- `XOR B`, 0xA8, R115. -/
  | xorB
  /-- `XOR C`, 0xA9, R115. -/
  | xorC
  /-- `XOR D`, 0xAA, R115. -/
  | xorD
  /-- `XOR E`, 0xAB, R115. -/
  | xorE
  /-- `XOR H`, 0xAC, R115. -/
  | xorH
  /-- `XOR L`, 0xAD, R115. -/
  | xorL
  /-- `XOR (HL)`, 0xAE, R116. -/
  | xorMemHL
  /-- `XOR A`, 0xAF, R115. -/
  | xorA
  /-- `OR B`, 0xB0, R112. -/
  | orB
  /-- `OR C`, 0xB1, R112. -/
  | orC
  /-- `OR D`, 0xB2, R112. -/
  | orD
  /-- `OR E`, 0xB3, R112. -/
  | orE
  /-- `OR H`, 0xB4, R112. -/
  | orH
  /-- `OR L`, 0xB5, R112. -/
  | orL
  /-- `OR (HL)`, 0xB6, R113. -/
  | orMemHL
  /-- `OR A`, 0xB7, R112. -/
  | orA
  /-- `CP B`, 0xB8, R109. -/
  | cpB
  /-- `CP C`, 0xB9, R109. -/
  | cpC
  /-- `CP D`, 0xBA, R109. -/
  | cpD
  /-- `CP E`, 0xBB, R109. -/
  | cpE
  /-- `CP H`, 0xBC, R109. -/
  | cpH
  /-- `CP L`, 0xBD, R109. -/
  | cpL
  /-- `CP (HL)`, 0xBE, R110. -/
  | cpMemHL
  /-- `CP A`, 0xBF, R109. -/
  | cpA
  /-- `JP NZ,a16`, 0xC2, R162. -/
  | jpNZImm (nn : Word)
  /-- `JP a16`, 0xC3, R161. -/
  | jpImm (nn : Word)
  /-- `ADD A,d8`, 0xC6, R105. -/
  | addAImm (n : Byte)
  /-- `JP Z,a16`, 0xCA, R162. -/
  | jpZImm (nn : Word)
  /-- `ADC A,d8`, 0xCE, R108. -/
  | adcAImm (n : Byte)
  /-- `JP NC,a16`, 0xD2, R162. -/
  | jpNCImm (nn : Word)
  /-- `JP C,a16`, 0xDA, R162. -/
  | jpCImm (nn : Word)
  /-- `LD (C),A`, 0xE2, R193. -/
  | ldMemHighCA
  /-- `JP HL`, 0xE9, R163. -/
  | jpHL
  /-- `LD (a16),A`, 0xEA, R195. -/
  | ldMemAbsA (nn : Word)
  /-- `XOR d8`, 0xEE, R117. -/
  | xorImm (n : Byte)
  /-- `LD A,(C)`, 0xF2, R194. -/
  | ldAMemHighC
  /-- `DI`, 0xF3, R222. -/
  | di
  /-- `OR d8`, 0xF6, R114. -/
  | orImm (n : Byte)
  /-- `LD A,(a16)`, 0xFA, R196. -/
  | ldAMemAbs (nn : Word)
  /-- `CP d8`, 0xFE, R111. -/
  | cpImm (n : Byte)
  /-- One of the 11 reserved opcodes of R89. -/
  | illegal (op : Byte)
  /-- One of the 74 unimplemented opcodes of R90. -/
  | unimplemented (op : Byte)
deriving DecidableEq, Repr

/-- The term of R94, or the undecoded class of R88, that each row of the table stands for. -/
def Instr.reading : Instr → Reading
  | .nop => .term .nop
  | .ldBCImm nn => .term (.ld16 .bc nn)
  | .ldMemBCA => .term (.ld8 (.mem .bc) (.reg .a))
  | .incBC => .term (.inc16 .bc)
  | .incB => .term (.inc8 (.reg .b))
  | .decB => .term (.dec8 (.reg .b))
  | .ldBImm n => .term (.ld8 (.reg .b) (.imm n))
  | .ldAMemBC => .term (.ld8 (.reg .a) (.mem .bc))
  | .decBC => .term (.dec16 .bc)
  | .incC => .term (.inc8 (.reg .c))
  | .decC => .term (.dec8 (.reg .c))
  | .ldCImm n => .term (.ld8 (.reg .c) (.imm n))
  | .ldDEImm nn => .term (.ld16 .de nn)
  | .ldMemDEA => .term (.ld8 (.mem .de) (.reg .a))
  | .incDE => .term (.inc16 .de)
  | .incD => .term (.inc8 (.reg .d))
  | .decD => .term (.dec8 (.reg .d))
  | .ldDImm n => .term (.ld8 (.reg .d) (.imm n))
  | .rla => .term .rla
  | .jrRel e => .term (.jr none e)
  | .ldAMemDE => .term (.ld8 (.reg .a) (.mem .de))
  | .decDE => .term (.dec16 .de)
  | .incE => .term (.inc8 (.reg .e))
  | .decE => .term (.dec8 (.reg .e))
  | .ldEImm n => .term (.ld8 (.reg .e) (.imm n))
  | .rra => .term .rra
  | .jrNZRel e => .term (.jr (some .nz) e)
  | .ldHLImm nn => .term (.ld16 .hl nn)
  | .ldMemHLIncA => .term (.ld8 (.mem .hlInc) (.reg .a))
  | .incHL => .term (.inc16 .hl)
  | .incH => .term (.inc8 (.reg .h))
  | .decH => .term (.dec8 (.reg .h))
  | .ldHImm n => .term (.ld8 (.reg .h) (.imm n))
  | .jrZRel e => .term (.jr (some .z) e)
  | .ldAMemHLInc => .term (.ld8 (.reg .a) (.mem .hlInc))
  | .decHL => .term (.dec16 .hl)
  | .incL => .term (.inc8 (.reg .l))
  | .decL => .term (.dec8 (.reg .l))
  | .ldLImm n => .term (.ld8 (.reg .l) (.imm n))
  | .jrNCRel e => .term (.jr (some .nc) e)
  | .ldSPImm nn => .term (.ld16 .sp nn)
  | .ldMemHLDecA => .term (.ld8 (.mem .hlDec) (.reg .a))
  | .incSP => .term (.inc16 .sp)
  | .incMemHL => .term (.inc8 (.mem .hl))
  | .decMemHL => .term (.dec8 (.mem .hl))
  | .ldMemHLImm n => .term (.ld8 (.mem .hl) (.imm n))
  | .jrCRel e => .term (.jr (some .c) e)
  | .ldAMemHLDec => .term (.ld8 (.reg .a) (.mem .hlDec))
  | .decSP => .term (.dec16 .sp)
  | .incA => .term (.inc8 (.reg .a))
  | .decA => .term (.dec8 (.reg .a))
  | .ldAImm n => .term (.ld8 (.reg .a) (.imm n))
  | .ldBB => .term (.ld8 (.reg .b) (.reg .b))
  | .ldBC => .term (.ld8 (.reg .b) (.reg .c))
  | .ldBD => .term (.ld8 (.reg .b) (.reg .d))
  | .ldBE => .term (.ld8 (.reg .b) (.reg .e))
  | .ldBH => .term (.ld8 (.reg .b) (.reg .h))
  | .ldBL => .term (.ld8 (.reg .b) (.reg .l))
  | .ldBMemHL => .term (.ld8 (.reg .b) (.mem .hl))
  | .ldBA => .term (.ld8 (.reg .b) (.reg .a))
  | .ldCB => .term (.ld8 (.reg .c) (.reg .b))
  | .ldCC => .term (.ld8 (.reg .c) (.reg .c))
  | .ldCD => .term (.ld8 (.reg .c) (.reg .d))
  | .ldCE => .term (.ld8 (.reg .c) (.reg .e))
  | .ldCH => .term (.ld8 (.reg .c) (.reg .h))
  | .ldCL => .term (.ld8 (.reg .c) (.reg .l))
  | .ldCMemHL => .term (.ld8 (.reg .c) (.mem .hl))
  | .ldCA => .term (.ld8 (.reg .c) (.reg .a))
  | .ldDB => .term (.ld8 (.reg .d) (.reg .b))
  | .ldDC => .term (.ld8 (.reg .d) (.reg .c))
  | .ldDD => .term (.ld8 (.reg .d) (.reg .d))
  | .ldDE => .term (.ld8 (.reg .d) (.reg .e))
  | .ldDH => .term (.ld8 (.reg .d) (.reg .h))
  | .ldDL => .term (.ld8 (.reg .d) (.reg .l))
  | .ldDMemHL => .term (.ld8 (.reg .d) (.mem .hl))
  | .ldDA => .term (.ld8 (.reg .d) (.reg .a))
  | .ldEB => .term (.ld8 (.reg .e) (.reg .b))
  | .ldEC => .term (.ld8 (.reg .e) (.reg .c))
  | .ldED => .term (.ld8 (.reg .e) (.reg .d))
  | .ldEE => .term (.ld8 (.reg .e) (.reg .e))
  | .ldEH => .term (.ld8 (.reg .e) (.reg .h))
  | .ldEL => .term (.ld8 (.reg .e) (.reg .l))
  | .ldEMemHL => .term (.ld8 (.reg .e) (.mem .hl))
  | .ldEA => .term (.ld8 (.reg .e) (.reg .a))
  | .ldHB => .term (.ld8 (.reg .h) (.reg .b))
  | .ldHC => .term (.ld8 (.reg .h) (.reg .c))
  | .ldHD => .term (.ld8 (.reg .h) (.reg .d))
  | .ldHE => .term (.ld8 (.reg .h) (.reg .e))
  | .ldHH => .term (.ld8 (.reg .h) (.reg .h))
  | .ldHL => .term (.ld8 (.reg .h) (.reg .l))
  | .ldHMemHL => .term (.ld8 (.reg .h) (.mem .hl))
  | .ldHA => .term (.ld8 (.reg .h) (.reg .a))
  | .ldLB => .term (.ld8 (.reg .l) (.reg .b))
  | .ldLC => .term (.ld8 (.reg .l) (.reg .c))
  | .ldLD => .term (.ld8 (.reg .l) (.reg .d))
  | .ldLE => .term (.ld8 (.reg .l) (.reg .e))
  | .ldLH => .term (.ld8 (.reg .l) (.reg .h))
  | .ldLL => .term (.ld8 (.reg .l) (.reg .l))
  | .ldLMemHL => .term (.ld8 (.reg .l) (.mem .hl))
  | .ldLA => .term (.ld8 (.reg .l) (.reg .a))
  | .ldMemHLB => .term (.ld8 (.mem .hl) (.reg .b))
  | .ldMemHLC => .term (.ld8 (.mem .hl) (.reg .c))
  | .ldMemHLD => .term (.ld8 (.mem .hl) (.reg .d))
  | .ldMemHLE => .term (.ld8 (.mem .hl) (.reg .e))
  | .ldMemHLH => .term (.ld8 (.mem .hl) (.reg .h))
  | .ldMemHLL => .term (.ld8 (.mem .hl) (.reg .l))
  | .ldMemHLA => .term (.ld8 (.mem .hl) (.reg .a))
  | .ldAB => .term (.ld8 (.reg .a) (.reg .b))
  | .ldAC => .term (.ld8 (.reg .a) (.reg .c))
  | .ldAD => .term (.ld8 (.reg .a) (.reg .d))
  | .ldAE => .term (.ld8 (.reg .a) (.reg .e))
  | .ldAH => .term (.ld8 (.reg .a) (.reg .h))
  | .ldAL => .term (.ld8 (.reg .a) (.reg .l))
  | .ldAMemHL => .term (.ld8 (.reg .a) (.mem .hl))
  | .ldAA => .term (.ld8 (.reg .a) (.reg .a))
  | .addAB => .term (.add (.reg .b))
  | .addAC => .term (.add (.reg .c))
  | .addAD => .term (.add (.reg .d))
  | .addAE => .term (.add (.reg .e))
  | .addAH => .term (.add (.reg .h))
  | .addAL => .term (.add (.reg .l))
  | .addAMemHL => .term (.add (.mem .hl))
  | .addAA => .term (.add (.reg .a))
  | .adcAB => .term (.adc (.reg .b))
  | .adcAC => .term (.adc (.reg .c))
  | .adcAD => .term (.adc (.reg .d))
  | .adcAE => .term (.adc (.reg .e))
  | .adcAH => .term (.adc (.reg .h))
  | .adcAL => .term (.adc (.reg .l))
  | .adcAMemHL => .term (.adc (.mem .hl))
  | .adcAA => .term (.adc (.reg .a))
  | .xorB => .term (.xor (.reg .b))
  | .xorC => .term (.xor (.reg .c))
  | .xorD => .term (.xor (.reg .d))
  | .xorE => .term (.xor (.reg .e))
  | .xorH => .term (.xor (.reg .h))
  | .xorL => .term (.xor (.reg .l))
  | .xorMemHL => .term (.xor (.mem .hl))
  | .xorA => .term (.xor (.reg .a))
  | .orB => .term (.or (.reg .b))
  | .orC => .term (.or (.reg .c))
  | .orD => .term (.or (.reg .d))
  | .orE => .term (.or (.reg .e))
  | .orH => .term (.or (.reg .h))
  | .orL => .term (.or (.reg .l))
  | .orMemHL => .term (.or (.mem .hl))
  | .orA => .term (.or (.reg .a))
  | .cpB => .term (.cp (.reg .b))
  | .cpC => .term (.cp (.reg .c))
  | .cpD => .term (.cp (.reg .d))
  | .cpE => .term (.cp (.reg .e))
  | .cpH => .term (.cp (.reg .h))
  | .cpL => .term (.cp (.reg .l))
  | .cpMemHL => .term (.cp (.mem .hl))
  | .cpA => .term (.cp (.reg .a))
  | .jpNZImm nn => .term (.jp (some .nz) nn)
  | .jpImm nn => .term (.jp none nn)
  | .addAImm n => .term (.add (.imm n))
  | .jpZImm nn => .term (.jp (some .z) nn)
  | .adcAImm n => .term (.adc (.imm n))
  | .jpNCImm nn => .term (.jp (some .nc) nn)
  | .jpCImm nn => .term (.jp (some .c) nn)
  | .ldMemHighCA => .term (.ld8 (.mem .highC) (.reg .a))
  | .jpHL => .term .jpHL
  | .ldMemAbsA nn => .term (.ld8 (.mem (.abs nn)) (.reg .a))
  | .xorImm n => .term (.xor (.imm n))
  | .ldAMemHighC => .term (.ld8 (.reg .a) (.mem .highC))
  | .di => .term .di
  | .orImm n => .term (.or (.imm n))
  | .ldAMemAbs nn => .term (.ld8 (.reg .a) (.mem (.abs nn)))
  | .cpImm n => .term (.cp (.imm n))
  | .illegal op => .illegal op
  | .unimplemented op => .unimplemented op

end Sys2Proof
end

