-- ==== Sys2Proof/Machine/Flags.lean ====
section
/-! DEFINITION. The flag byte and every computation that produces flags: the adder, the comparator, or, exclusive-or,
increment, decrement and the rotates. Operands are taken to exact numbers, and the result is narrowed at the end. -/

namespace Sys2Proof.Machine

/-- `pack(Z,N,H,C) = Z<<7 | N<<6 | H<<5 | C<<4` (R24): the byte F. -/
def packFlags (f : Flags) : Byte :=
  BitVec.ofBool f.z ++ BitVec.ofBool f.n ++ BitVec.ofBool f.h ++ BitVec.ofBool f.c ++ 0#4

/-- `unpack(b) = (b[7], b[6], b[5], b[4])` (R24): the low nibble is ignored. -/
def unpackFlags (v : Byte) : Flags :=
  { z := v.getLsbD 7, n := v.getLsbD 6, h := v.getLsbD 5, c := v.getLsbD 4 }

/-- The low nibble of a byte, as a number. -/
def nibble (v : Byte) : Nat := v.toNat % 16

/-- `add8(a, b, cin)` (R101). -/
def add8 (a b : Byte) (cin : Bool) : Byte × Flags :=
  let sum := a.toNat + b.toNat + cin.toNat
  let res := BitVec.ofNat 8 sum
  (res, { z := res == 0, n := false, h := decide (nibble a + nibble b + cin.toNat > 15), c := decide (sum > 255) })

/-- `cmp8(a, b)` (R102): the flags of a subtraction; no result is kept. -/
def cmp8 (a b : Byte) : Flags :=
  { z := a - b == 0, n := true, h := decide (nibble a < nibble b), c := decide (a.toNat < b.toNat) }

/-- The flags of OR and XOR from the result: Z alone is computed (R112, R115). -/
def logicFlags (res : Byte) : Flags := { z := res == 0, n := false, h := false, c := false }

/-- OR with the accumulator (R112). -/
def or8 (a b : Byte) : Byte × Flags := (a ||| b, logicFlags (a ||| b))

/-- Exclusive-or with the accumulator (R115). -/
def xor8 (a b : Byte) : Byte × Flags := (a ^^^ b, logicFlags (a ^^^ b))

/-- `inc8(v)` (R140): C is passed through. -/
def inc8 (v : Byte) (f : Flags) : Byte × Flags :=
  let res := BitVec.ofNat 8 (v.toNat + 1)
  (res, { f with z := res == 0, n := false, h := nibble v == 0xF })

/-- `dec8(v)` (R141): C is passed through. -/
def dec8 (v : Byte) (f : Flags) : Byte × Flags :=
  let res := v - 1
  (res, { f with z := res == 0, n := true, h := nibble v == 0x0 })

/-- The flags of the rotates: only C, the bit rotated out (R220, R221). -/
def rotateFlags (out : Bool) : Flags := { z := false, n := false, h := false, c := out }

/-- Rotate left through the carry (R220): bits 6 to 0 move up, the old carry enters bit 0. -/
def rotateLeft (v : Byte) (cin : Bool) : Byte × Flags :=
  (v.extractLsb' 0 7 ++ BitVec.ofBool cin, rotateFlags (v.getLsbD 7))

/-- Rotate right through the carry (R221): bits 7 to 1 move down, the old carry enters bit 7. -/
def rotateRight (v : Byte) (cin : Bool) : Byte × Flags :=
  (BitVec.ofBool cin ++ v.extractLsb' 1 7, rotateFlags (v.getLsbD 0))

/-- `cond(cc)` (R160). -/
def holds (cc : Cond) (f : Flags) : Bool :=
  match cc with
  | .nz => !f.z
  | .z => f.z
  | .nc => !f.c
  | .c => f.c

/-- Whether a jump with an optional condition is taken: without one it always is. -/
def taken (cc : Option Cond) (f : Flags) : Bool :=
  match cc with
  | none => true
  | some cond => holds cond f

end Sys2Proof.Machine
end

