-- ==== Sys2Proof/Machine/Ops.lean ====
section
/-! DEFINITION. The named operations over registers, memory and the program counter, and taking a failure. Every
register has its one home in `State`; the pairs are views (R21). -/

namespace Sys2Proof.Machine

/-! ### Registers -/

/-- `R[r]` (R20). -/
def State.reg (s : State) : Reg8 → Byte
  | .a => s.a
  | .b => s.b
  | .c => s.c
  | .d => s.d
  | .e => s.e
  | .h => s.h
  | .l => s.l

/-- `R[r] <- v`: one cell for each name (R22). -/
def State.setReg (s : State) (r : Reg8) (v : Byte) : State :=
  match r with
  | .a => { s with a := v }
  | .b => { s with b := v }
  | .c => { s with c := v }
  | .d => { s with d := v }
  | .e => { s with e := v }
  | .h => { s with h := v }
  | .l => { s with l := v }

/-- `RP[p]`: a pair view, its first register the high byte, or SP (R21, R30). -/
def State.pair (s : State) : Reg16 → Word
  | .bc => wordOf s.b s.c
  | .de => wordOf s.d s.e
  | .hl => wordOf s.h s.l
  | .sp => s.sp

/-- `RP[p] <- v`: both bytes of a pair are written, and no other register (R21, R22). -/
def State.setPair (s : State) (p : Reg16) (v : Word) : State :=
  match p with
  | .bc => { s with b := hiByte v, c := loByte v }
  | .de => { s with d := hiByte v, e := loByte v }
  | .hl => { s with h := hiByte v, l := loByte v }
  | .sp => { s with sp := v }

/-- The accumulator and the flags take an ALU result. -/
def State.setAcc (s : State) (out : Byte × Flags) : State := { s with a := out.1, f := out.2 }

/-! ### Memory -/

/-- `read_byte` on the state's memory (R61). -/
def State.readByte (s : State) (a : Word) : Byte := Memory.readByte s.mem a

/-- `read_word` on the state's memory (R62). -/
def State.readWord (s : State) (a : Word) : Word := Memory.readWord s.mem a

/-- `write_byte` on the state's memory (R63), under the parameter `ROM_WRITES`. -/
def State.writeByte (s : State) (a : Word) (v : Byte) : State :=
  { s with mem := Memory.writeByte Config.romWrites s.mem a v }

/-! ### The program counter -/

/-- `pc <- pc + length` (R29). -/
def State.advance (s : State) (length : Word) : State := { s with pc := s.pc + length }

/-- `pc <- target`. -/
def State.goto (s : State) (target : Word) : State := { s with pc := target }

/-! ### Failure -/

/-- The failure codes of R240. -/
def Fault.code : Fault → Nat
  | .illegalOpcode _ _ => 1
  | .unimplementedOpcode _ _ => 2
  | .invalidMutableAccess _ _ => 3

/-- Taking a failure (R245): the fault status records it and nothing else changes, so PC still holds the address of
the failing opcode. Every failure is taken by this one operation. There is no return from it and no handler (R246),
so no operation undoes it. -/
def State.fail (s : State) (f : Fault) : State := { s with status := .failed f }

end Sys2Proof.Machine
end

