-- ==== Sys2Proof/Machine/Operands.lean ====
section
/-! DEFINITION. The operand forms of R94: effective address, read, write and the post-modification of HL. -/

namespace Sys2Proof.Machine

/-- `ea(M)` (R94): `(C)` is 0xFF00 + C, `(a16)` is the address itself, and the HL forms use the HL held before any
post-modification. -/
def ea (m : Mem8) (s : State) : Word :=
  match m with
  | .bc => s.pair .bc
  | .de => s.pair .de
  | .hl => s.pair .hl
  | .hlInc => s.pair .hl
  | .hlDec => s.pair .hl
  | .highC => 0xFF00 + zext16 s.c
  | .abs nn => nn

/-- `read(x)` (R94). -/
def readSrc (x : Src8) (s : State) : Byte :=
  match x with
  | .reg r => s.reg r
  | .imm n => n
  | .mem m => s.readByte (ea m s)

/-- `write(x, v)` (R94). -/
def writeDst (x : Dst8) (v : Byte) (s : State) : State :=
  match x with
  | .reg r => s.setReg r v
  | .mem m => s.writeByte (ea m s) v

/-- `post(M)` (R94): HL changes by one, after the access. -/
def post (m : Mem8) (s : State) : State :=
  match m with
  | .hlInc => s.setPair .hl (s.pair .hl + 1)
  | .hlDec => s.setPair .hl (s.pair .hl - 1)
  | .bc => s
  | .de => s
  | .hl => s
  | .highC => s
  | .abs _ => s

/-- `post` of a source. -/
def postSrc (x : Src8) (s : State) : State :=
  match x with
  | .mem m => post m s
  | .reg _ => s
  | .imm _ => s

/-- `post` of a destination. -/
def postDst (x : Dst8) (s : State) : State :=
  match x with
  | .mem m => post m s
  | .reg _ => s

end Sys2Proof.Machine
end

