-- ==== Sys2Proof/Machine/Alu.lean ====
section
/-! DEFINITION. The 8-bit ALU family (40_nop_alu8.md R103 to R117): five shared operations on an operand source, and one
meaning per opcode. -/

namespace Sys2Proof.Machine

/-- ADD A,x: the old carry is not used (R103). -/
def addA (x : Src8) (s : State) : State := s.setAcc (add8 s.a (readSrc x s) false)

/-- ADC A,x: the old carry is the carry-in (R106). -/
def adcA (x : Src8) (s : State) : State := s.setAcc (add8 s.a (readSrc x s) s.f.c)

/-- CP x: flags only, A is not written (R109). -/
def cpA (x : Src8) (s : State) : State := { s with f := cmp8 s.a (readSrc x s) }

/-- OR x (R112). -/
def orA (x : Src8) (s : State) : State := s.setAcc (or8 s.a (readSrc x s))

/-- XOR x (R115). -/
def xorA (x : Src8) (s : State) : State := s.setAcc (xor8 s.a (readSrc x s))

/-! ### The meanings -/

/-- `ADD A,B` (0x80, R103). -/
def execAddAB (s : State) : Result :=
  .next ((addA (.reg .b) s).advance 1)

/-- `ADD A,C` (0x81, R103). -/
def execAddAC (s : State) : Result :=
  .next ((addA (.reg .c) s).advance 1)

/-- `ADD A,D` (0x82, R103). -/
def execAddAD (s : State) : Result :=
  .next ((addA (.reg .d) s).advance 1)

/-- `ADD A,E` (0x83, R103). -/
def execAddAE (s : State) : Result :=
  .next ((addA (.reg .e) s).advance 1)

/-- `ADD A,H` (0x84, R103). -/
def execAddAH (s : State) : Result :=
  .next ((addA (.reg .h) s).advance 1)

/-- `ADD A,L` (0x85, R103). -/
def execAddAL (s : State) : Result :=
  .next ((addA (.reg .l) s).advance 1)

/-- `ADD A,(HL)` (0x86, R104). -/
def execAddAMemHL (s : State) : Result :=
  .next ((addA (.mem .hl) s).advance 1)

/-- `ADD A,A` (0x87, R103). -/
def execAddAA (s : State) : Result :=
  .next ((addA (.reg .a) s).advance 1)

/-- `ADD A,d8` (0xC6, R105). -/
def execAddAImm (n : Byte) (s : State) : Result :=
  .next ((addA (.imm n) s).advance 2)

/-- `ADC A,B` (0x88, R106). -/
def execAdcAB (s : State) : Result :=
  .next ((adcA (.reg .b) s).advance 1)

/-- `ADC A,C` (0x89, R106). -/
def execAdcAC (s : State) : Result :=
  .next ((adcA (.reg .c) s).advance 1)

/-- `ADC A,D` (0x8A, R106). -/
def execAdcAD (s : State) : Result :=
  .next ((adcA (.reg .d) s).advance 1)

/-- `ADC A,E` (0x8B, R106). -/
def execAdcAE (s : State) : Result :=
  .next ((adcA (.reg .e) s).advance 1)

/-- `ADC A,H` (0x8C, R106). -/
def execAdcAH (s : State) : Result :=
  .next ((adcA (.reg .h) s).advance 1)

/-- `ADC A,L` (0x8D, R106). -/
def execAdcAL (s : State) : Result :=
  .next ((adcA (.reg .l) s).advance 1)

/-- `ADC A,(HL)` (0x8E, R107). -/
def execAdcAMemHL (s : State) : Result :=
  .next ((adcA (.mem .hl) s).advance 1)

/-- `ADC A,A` (0x8F, R106). -/
def execAdcAA (s : State) : Result :=
  .next ((adcA (.reg .a) s).advance 1)

/-- `ADC A,d8` (0xCE, R108). -/
def execAdcAImm (n : Byte) (s : State) : Result :=
  .next ((adcA (.imm n) s).advance 2)

/-- `CP B` (0xB8, R109). -/
def execCpB (s : State) : Result :=
  .next ((cpA (.reg .b) s).advance 1)

/-- `CP C` (0xB9, R109). -/
def execCpC (s : State) : Result :=
  .next ((cpA (.reg .c) s).advance 1)

/-- `CP D` (0xBA, R109). -/
def execCpD (s : State) : Result :=
  .next ((cpA (.reg .d) s).advance 1)

/-- `CP E` (0xBB, R109). -/
def execCpE (s : State) : Result :=
  .next ((cpA (.reg .e) s).advance 1)

/-- `CP H` (0xBC, R109). -/
def execCpH (s : State) : Result :=
  .next ((cpA (.reg .h) s).advance 1)

/-- `CP L` (0xBD, R109). -/
def execCpL (s : State) : Result :=
  .next ((cpA (.reg .l) s).advance 1)

/-- `CP (HL)` (0xBE, R110). -/
def execCpMemHL (s : State) : Result :=
  .next ((cpA (.mem .hl) s).advance 1)

/-- `CP A` (0xBF, R109). -/
def execCpA (s : State) : Result :=
  .next ((cpA (.reg .a) s).advance 1)

/-- `CP d8` (0xFE, R111). -/
def execCpImm (n : Byte) (s : State) : Result :=
  .next ((cpA (.imm n) s).advance 2)

/-- `OR B` (0xB0, R112). -/
def execOrB (s : State) : Result :=
  .next ((orA (.reg .b) s).advance 1)

/-- `OR C` (0xB1, R112). -/
def execOrC (s : State) : Result :=
  .next ((orA (.reg .c) s).advance 1)

/-- `OR D` (0xB2, R112). -/
def execOrD (s : State) : Result :=
  .next ((orA (.reg .d) s).advance 1)

/-- `OR E` (0xB3, R112). -/
def execOrE (s : State) : Result :=
  .next ((orA (.reg .e) s).advance 1)

/-- `OR H` (0xB4, R112). -/
def execOrH (s : State) : Result :=
  .next ((orA (.reg .h) s).advance 1)

/-- `OR L` (0xB5, R112). -/
def execOrL (s : State) : Result :=
  .next ((orA (.reg .l) s).advance 1)

/-- `OR (HL)` (0xB6, R113). -/
def execOrMemHL (s : State) : Result :=
  .next ((orA (.mem .hl) s).advance 1)

/-- `OR A` (0xB7, R112). -/
def execOrA (s : State) : Result :=
  .next ((orA (.reg .a) s).advance 1)

/-- `OR d8` (0xF6, R114). -/
def execOrImm (n : Byte) (s : State) : Result :=
  .next ((orA (.imm n) s).advance 2)

/-- `XOR B` (0xA8, R115). -/
def execXorB (s : State) : Result :=
  .next ((xorA (.reg .b) s).advance 1)

/-- `XOR C` (0xA9, R115). -/
def execXorC (s : State) : Result :=
  .next ((xorA (.reg .c) s).advance 1)

/-- `XOR D` (0xAA, R115). -/
def execXorD (s : State) : Result :=
  .next ((xorA (.reg .d) s).advance 1)

/-- `XOR E` (0xAB, R115). -/
def execXorE (s : State) : Result :=
  .next ((xorA (.reg .e) s).advance 1)

/-- `XOR H` (0xAC, R115). -/
def execXorH (s : State) : Result :=
  .next ((xorA (.reg .h) s).advance 1)

/-- `XOR L` (0xAD, R115). -/
def execXorL (s : State) : Result :=
  .next ((xorA (.reg .l) s).advance 1)

/-- `XOR (HL)` (0xAE, R116). -/
def execXorMemHL (s : State) : Result :=
  .next ((xorA (.mem .hl) s).advance 1)

/-- `XOR A` (0xAF, R115). -/
def execXorA (s : State) : Result :=
  .next ((xorA (.reg .a) s).advance 1)

/-- `XOR d8` (0xEE, R117). -/
def execXorImm (n : Byte) (s : State) : Result :=
  .next ((xorA (.imm n) s).advance 2)

end Sys2Proof.Machine
end

