-- ==== Sys2Proof/Machine/IncDec.lean ====
section
/-! DEFINITION. Increment and decrement (41_incdec.md). -/

namespace Sys2Proof.Machine

/-- INC r and DEC r (R142, R145): `g` is `inc8` or `dec8`. -/
def stepReg (g : Byte → Flags → Byte × Flags) (r : Reg8) (s : State) : State :=
  let out := g (s.reg r) s.f
  { s.setReg r out.1 with f := out.2 }

/-- The read-modify-write of INC (HL) and DEC (HL) (R143, R146), `MemRMW` of R64: without a cell at HL the step fails
and nothing else changes; else the byte read gives the flags and its successor is written through `write_byte`, so a
ROM byte changes only under `ROM_WRITES` = `store`. -/
def stepMemHL (g : Byte → Flags → Byte × Flags) (s : State) : State :=
  let addr := s.pair .hl
  match getMutableByte addr with
  | none => s.fail (.invalidMutableAccess addr s.pc)
  | some _ =>
    let out := g (s.readByte addr) s.f
    { s.writeByte addr out.1 with f := out.2 }.advance 1

/-- INC rr (R144): no flag changes. -/
def incPair (p : Reg16) (s : State) : State := s.setPair p (s.pair p + 1)

/-- DEC rr (R147): no flag changes. -/
def decPair (p : Reg16) (s : State) : State := s.setPair p (s.pair p - 1)

/-! ### The meanings -/

/-- `INC B` (0x04, R142). -/
def execIncB (s : State) : Result :=
  .next ((stepReg inc8 .b s).advance 1)

/-- `INC C` (0x0C, R142). -/
def execIncC (s : State) : Result :=
  .next ((stepReg inc8 .c s).advance 1)

/-- `INC D` (0x14, R142). -/
def execIncD (s : State) : Result :=
  .next ((stepReg inc8 .d s).advance 1)

/-- `INC E` (0x1C, R142). -/
def execIncE (s : State) : Result :=
  .next ((stepReg inc8 .e s).advance 1)

/-- `INC H` (0x24, R142). -/
def execIncH (s : State) : Result :=
  .next ((stepReg inc8 .h s).advance 1)

/-- `INC L` (0x2C, R142). -/
def execIncL (s : State) : Result :=
  .next ((stepReg inc8 .l s).advance 1)

/-- `INC A` (0x3C, R142). -/
def execIncA (s : State) : Result :=
  .next ((stepReg inc8 .a s).advance 1)

/-- `INC (HL)` (0x34, R143). -/
def execIncMemHL (s : State) : Result :=
  .next (stepMemHL inc8 s)

/-- `DEC B` (0x05, R145). -/
def execDecB (s : State) : Result :=
  .next ((stepReg dec8 .b s).advance 1)

/-- `DEC C` (0x0D, R145). -/
def execDecC (s : State) : Result :=
  .next ((stepReg dec8 .c s).advance 1)

/-- `DEC D` (0x15, R145). -/
def execDecD (s : State) : Result :=
  .next ((stepReg dec8 .d s).advance 1)

/-- `DEC E` (0x1D, R145). -/
def execDecE (s : State) : Result :=
  .next ((stepReg dec8 .e s).advance 1)

/-- `DEC H` (0x25, R145). -/
def execDecH (s : State) : Result :=
  .next ((stepReg dec8 .h s).advance 1)

/-- `DEC L` (0x2D, R145). -/
def execDecL (s : State) : Result :=
  .next ((stepReg dec8 .l s).advance 1)

/-- `DEC A` (0x3D, R145). -/
def execDecA (s : State) : Result :=
  .next ((stepReg dec8 .a s).advance 1)

/-- `DEC (HL)` (0x35, R146). -/
def execDecMemHL (s : State) : Result :=
  .next (stepMemHL dec8 s)

/-- `INC BC` (0x03, R144). -/
def execIncBC (s : State) : Result :=
  .next ((incPair .bc s).advance 1)

/-- `INC DE` (0x13, R144). -/
def execIncDE (s : State) : Result :=
  .next ((incPair .de s).advance 1)

/-- `INC HL` (0x23, R144). -/
def execIncHL (s : State) : Result :=
  .next ((incPair .hl s).advance 1)

/-- `INC SP` (0x33, R144). -/
def execIncSP (s : State) : Result :=
  .next ((incPair .sp s).advance 1)

/-- `DEC BC` (0x0B, R147). -/
def execDecBC (s : State) : Result :=
  .next ((decPair .bc s).advance 1)

/-- `DEC DE` (0x1B, R147). -/
def execDecDE (s : State) : Result :=
  .next ((decPair .de s).advance 1)

/-- `DEC HL` (0x2B, R147). -/
def execDecHL (s : State) : Result :=
  .next ((decPair .hl s).advance 1)

/-- `DEC SP` (0x3B, R147). -/
def execDecSP (s : State) : Result :=
  .next ((decPair .sp s).advance 1)

end Sys2Proof.Machine
end

