-- ==== Sys2Proof/Machine/Jump.lean ====
section
/-! DEFINITION. Control transfer (42_control.md). -/

namespace Sys2Proof.Machine

/-- JP a16 and JP cc,a16 (R161, R162): not taken, PC moves past the three bytes. -/
def jumpAbs (cc : Option Cond) (nn : Word) (s : State) : State :=
  if taken cc s.f then s.goto nn else s.advance 3

/-- JR e8 and JR cc,e8 (R164, R165): the displacement is added to the address of the next instruction. -/
def jumpRel (cc : Option Cond) (e : Byte) (s : State) : State :=
  if taken cc s.f then s.goto (s.pc + 2 + sext16 e) else s.advance 2

/-! ### The meanings -/

/-- `JP a16` (0xC3, R161). -/
def execJpImm (nn : Word) (s : State) : Result :=
  .next (jumpAbs none nn s)

/-- `JP NZ,a16` (0xC2, R162). -/
def execJpNZImm (nn : Word) (s : State) : Result :=
  .next (jumpAbs (some .nz) nn s)

/-- `JP Z,a16` (0xCA, R162). -/
def execJpZImm (nn : Word) (s : State) : Result :=
  .next (jumpAbs (some .z) nn s)

/-- `JP NC,a16` (0xD2, R162). -/
def execJpNCImm (nn : Word) (s : State) : Result :=
  .next (jumpAbs (some .nc) nn s)

/-- `JP C,a16` (0xDA, R162). -/
def execJpCImm (nn : Word) (s : State) : Result :=
  .next (jumpAbs (some .c) nn s)

/-- `JP HL` (0xE9, R163). -/
def execJpHL (s : State) : Result :=
  .next (s.goto (s.pair .hl))

/-- `JR e8` (0x18, R164). -/
def execJrRel (e : Byte) (s : State) : Result :=
  .next (jumpRel none e s)

/-- `JR NZ,e8` (0x20, R165). -/
def execJrNZRel (e : Byte) (s : State) : Result :=
  .next (jumpRel (some .nz) e s)

/-- `JR Z,e8` (0x28, R165). -/
def execJrZRel (e : Byte) (s : State) : Result :=
  .next (jumpRel (some .z) e s)

/-- `JR NC,e8` (0x30, R165). -/
def execJrNCRel (e : Byte) (s : State) : Result :=
  .next (jumpRel (some .nc) e s)

/-- `JR C,e8` (0x38, R165). -/
def execJrCRel (e : Byte) (s : State) : Result :=
  .next (jumpRel (some .c) e s)

end Sys2Proof.Machine
end

