-- ==== Sys2Proof/Machine/Load16.lean ====
section
/-! DEFINITION. The word loads (43_loads.md R197). -/

namespace Sys2Proof.Machine

/-- `LD BC,d16` (0x01, R197). -/
def execLdBCImm (nn : Word) (s : State) : Result :=
  .next ((s.setPair .bc nn).advance 3)

/-- `LD DE,d16` (0x11, R197). -/
def execLdDEImm (nn : Word) (s : State) : Result :=
  .next ((s.setPair .de nn).advance 3)

/-- `LD HL,d16` (0x21, R197). -/
def execLdHLImm (nn : Word) (s : State) : Result :=
  .next ((s.setPair .hl nn).advance 3)

/-- `LD SP,d16` (0x31, R197). -/
def execLdSPImm (nn : Word) (s : State) : Result :=
  .next ((s.setPair .sp nn).advance 3)

end Sys2Proof.Machine
end

