-- ==== Sys2Proof/Machine/Load8.lean ====
section
/-! DEFINITION. The byte loads between registers, (HL) and immediates (43_loads.md R180 to R184). -/

namespace Sys2Proof.Machine

/-- LD dst,src (R94): the source is read, then the destination is written, then HL is post-modified where the operand
form says so. No flag changes. -/
def load8 (dst : Dst8) (x : Src8) (s : State) : State :=
  postSrc x (postDst dst (writeDst dst (readSrc x s) s))

/-! ### The meanings -/

/-- `LD B,B` (0x40, R180). -/
def execLdBB (s : State) : Result :=
  .next ((load8 (.reg .b) (.reg .b) s).advance 1)

/-- `LD B,C` (0x41, R180). -/
def execLdBC (s : State) : Result :=
  .next ((load8 (.reg .b) (.reg .c) s).advance 1)

/-- `LD B,D` (0x42, R180). -/
def execLdBD (s : State) : Result :=
  .next ((load8 (.reg .b) (.reg .d) s).advance 1)

/-- `LD B,E` (0x43, R180). -/
def execLdBE (s : State) : Result :=
  .next ((load8 (.reg .b) (.reg .e) s).advance 1)

/-- `LD B,H` (0x44, R180). -/
def execLdBH (s : State) : Result :=
  .next ((load8 (.reg .b) (.reg .h) s).advance 1)

/-- `LD B,L` (0x45, R180). -/
def execLdBL (s : State) : Result :=
  .next ((load8 (.reg .b) (.reg .l) s).advance 1)

/-- `LD B,A` (0x47, R180). -/
def execLdBA (s : State) : Result :=
  .next ((load8 (.reg .b) (.reg .a) s).advance 1)

/-- `LD C,B` (0x48, R180). -/
def execLdCB (s : State) : Result :=
  .next ((load8 (.reg .c) (.reg .b) s).advance 1)

/-- `LD C,C` (0x49, R180). -/
def execLdCC (s : State) : Result :=
  .next ((load8 (.reg .c) (.reg .c) s).advance 1)

/-- `LD C,D` (0x4A, R180). -/
def execLdCD (s : State) : Result :=
  .next ((load8 (.reg .c) (.reg .d) s).advance 1)

/-- `LD C,E` (0x4B, R180). -/
def execLdCE (s : State) : Result :=
  .next ((load8 (.reg .c) (.reg .e) s).advance 1)

/-- `LD C,H` (0x4C, R180). -/
def execLdCH (s : State) : Result :=
  .next ((load8 (.reg .c) (.reg .h) s).advance 1)

/-- `LD C,L` (0x4D, R180). -/
def execLdCL (s : State) : Result :=
  .next ((load8 (.reg .c) (.reg .l) s).advance 1)

/-- `LD C,A` (0x4F, R180). -/
def execLdCA (s : State) : Result :=
  .next ((load8 (.reg .c) (.reg .a) s).advance 1)

/-- `LD D,B` (0x50, R180). -/
def execLdDB (s : State) : Result :=
  .next ((load8 (.reg .d) (.reg .b) s).advance 1)

/-- `LD D,C` (0x51, R180). -/
def execLdDC (s : State) : Result :=
  .next ((load8 (.reg .d) (.reg .c) s).advance 1)

/-- `LD D,D` (0x52, R180). -/
def execLdDD (s : State) : Result :=
  .next ((load8 (.reg .d) (.reg .d) s).advance 1)

/-- `LD D,E` (0x53, R180). -/
def execLdDE (s : State) : Result :=
  .next ((load8 (.reg .d) (.reg .e) s).advance 1)

/-- `LD D,H` (0x54, R180). -/
def execLdDH (s : State) : Result :=
  .next ((load8 (.reg .d) (.reg .h) s).advance 1)

/-- `LD D,L` (0x55, R180). -/
def execLdDL (s : State) : Result :=
  .next ((load8 (.reg .d) (.reg .l) s).advance 1)

/-- `LD D,A` (0x57, R180). -/
def execLdDA (s : State) : Result :=
  .next ((load8 (.reg .d) (.reg .a) s).advance 1)

/-- `LD E,B` (0x58, R180). -/
def execLdEB (s : State) : Result :=
  .next ((load8 (.reg .e) (.reg .b) s).advance 1)

/-- `LD E,C` (0x59, R180). -/
def execLdEC (s : State) : Result :=
  .next ((load8 (.reg .e) (.reg .c) s).advance 1)

/-- `LD E,D` (0x5A, R180). -/
def execLdED (s : State) : Result :=
  .next ((load8 (.reg .e) (.reg .d) s).advance 1)

/-- `LD E,E` (0x5B, R180). -/
def execLdEE (s : State) : Result :=
  .next ((load8 (.reg .e) (.reg .e) s).advance 1)

/-- `LD E,H` (0x5C, R180). -/
def execLdEH (s : State) : Result :=
  .next ((load8 (.reg .e) (.reg .h) s).advance 1)

/-- `LD E,L` (0x5D, R180). -/
def execLdEL (s : State) : Result :=
  .next ((load8 (.reg .e) (.reg .l) s).advance 1)

/-- `LD E,A` (0x5F, R180). -/
def execLdEA (s : State) : Result :=
  .next ((load8 (.reg .e) (.reg .a) s).advance 1)

/-- `LD H,B` (0x60, R180). -/
def execLdHB (s : State) : Result :=
  .next ((load8 (.reg .h) (.reg .b) s).advance 1)

/-- `LD H,C` (0x61, R180). -/
def execLdHC (s : State) : Result :=
  .next ((load8 (.reg .h) (.reg .c) s).advance 1)

/-- `LD H,D` (0x62, R180). -/
def execLdHD (s : State) : Result :=
  .next ((load8 (.reg .h) (.reg .d) s).advance 1)

/-- `LD H,E` (0x63, R180). -/
def execLdHE (s : State) : Result :=
  .next ((load8 (.reg .h) (.reg .e) s).advance 1)

/-- `LD H,H` (0x64, R180). -/
def execLdHH (s : State) : Result :=
  .next ((load8 (.reg .h) (.reg .h) s).advance 1)

/-- `LD H,L` (0x65, R180). -/
def execLdHL (s : State) : Result :=
  .next ((load8 (.reg .h) (.reg .l) s).advance 1)

/-- `LD H,A` (0x67, R180). -/
def execLdHA (s : State) : Result :=
  .next ((load8 (.reg .h) (.reg .a) s).advance 1)

/-- `LD L,B` (0x68, R180). -/
def execLdLB (s : State) : Result :=
  .next ((load8 (.reg .l) (.reg .b) s).advance 1)

/-- `LD L,C` (0x69, R180). -/
def execLdLC (s : State) : Result :=
  .next ((load8 (.reg .l) (.reg .c) s).advance 1)

/-- `LD L,D` (0x6A, R180). -/
def execLdLD (s : State) : Result :=
  .next ((load8 (.reg .l) (.reg .d) s).advance 1)

/-- `LD L,E` (0x6B, R180). -/
def execLdLE (s : State) : Result :=
  .next ((load8 (.reg .l) (.reg .e) s).advance 1)

/-- `LD L,H` (0x6C, R180). -/
def execLdLH (s : State) : Result :=
  .next ((load8 (.reg .l) (.reg .h) s).advance 1)

/-- `LD L,L` (0x6D, R180). -/
def execLdLL (s : State) : Result :=
  .next ((load8 (.reg .l) (.reg .l) s).advance 1)

/-- `LD L,A` (0x6F, R180). -/
def execLdLA (s : State) : Result :=
  .next ((load8 (.reg .l) (.reg .a) s).advance 1)

/-- `LD A,B` (0x78, R180). -/
def execLdAB (s : State) : Result :=
  .next ((load8 (.reg .a) (.reg .b) s).advance 1)

/-- `LD A,C` (0x79, R180). -/
def execLdAC (s : State) : Result :=
  .next ((load8 (.reg .a) (.reg .c) s).advance 1)

/-- `LD A,D` (0x7A, R180). -/
def execLdAD (s : State) : Result :=
  .next ((load8 (.reg .a) (.reg .d) s).advance 1)

/-- `LD A,E` (0x7B, R180). -/
def execLdAE (s : State) : Result :=
  .next ((load8 (.reg .a) (.reg .e) s).advance 1)

/-- `LD A,H` (0x7C, R180). -/
def execLdAH (s : State) : Result :=
  .next ((load8 (.reg .a) (.reg .h) s).advance 1)

/-- `LD A,L` (0x7D, R180). -/
def execLdAL (s : State) : Result :=
  .next ((load8 (.reg .a) (.reg .l) s).advance 1)

/-- `LD A,A` (0x7F, R180). -/
def execLdAA (s : State) : Result :=
  .next ((load8 (.reg .a) (.reg .a) s).advance 1)

/-- `LD B,(HL)` (0x46, R181). -/
def execLdBMemHL (s : State) : Result :=
  .next ((load8 (.reg .b) (.mem .hl) s).advance 1)

/-- `LD C,(HL)` (0x4E, R181). -/
def execLdCMemHL (s : State) : Result :=
  .next ((load8 (.reg .c) (.mem .hl) s).advance 1)

/-- `LD D,(HL)` (0x56, R181). -/
def execLdDMemHL (s : State) : Result :=
  .next ((load8 (.reg .d) (.mem .hl) s).advance 1)

/-- `LD E,(HL)` (0x5E, R181). -/
def execLdEMemHL (s : State) : Result :=
  .next ((load8 (.reg .e) (.mem .hl) s).advance 1)

/-- `LD H,(HL)` (0x66, R181). -/
def execLdHMemHL (s : State) : Result :=
  .next ((load8 (.reg .h) (.mem .hl) s).advance 1)

/-- `LD L,(HL)` (0x6E, R181). -/
def execLdLMemHL (s : State) : Result :=
  .next ((load8 (.reg .l) (.mem .hl) s).advance 1)

/-- `LD A,(HL)` (0x7E, R181). -/
def execLdAMemHL (s : State) : Result :=
  .next ((load8 (.reg .a) (.mem .hl) s).advance 1)

/-- `LD (HL),B` (0x70, R182). -/
def execLdMemHLB (s : State) : Result :=
  .next ((load8 (.mem .hl) (.reg .b) s).advance 1)

/-- `LD (HL),C` (0x71, R182). -/
def execLdMemHLC (s : State) : Result :=
  .next ((load8 (.mem .hl) (.reg .c) s).advance 1)

/-- `LD (HL),D` (0x72, R182). -/
def execLdMemHLD (s : State) : Result :=
  .next ((load8 (.mem .hl) (.reg .d) s).advance 1)

/-- `LD (HL),E` (0x73, R182). -/
def execLdMemHLE (s : State) : Result :=
  .next ((load8 (.mem .hl) (.reg .e) s).advance 1)

/-- `LD (HL),H` (0x74, R182). -/
def execLdMemHLH (s : State) : Result :=
  .next ((load8 (.mem .hl) (.reg .h) s).advance 1)

/-- `LD (HL),L` (0x75, R182). -/
def execLdMemHLL (s : State) : Result :=
  .next ((load8 (.mem .hl) (.reg .l) s).advance 1)

/-- `LD (HL),A` (0x77, R182). -/
def execLdMemHLA (s : State) : Result :=
  .next ((load8 (.mem .hl) (.reg .a) s).advance 1)

/-- `LD B,d8` (0x06, R183). -/
def execLdBImm (n : Byte) (s : State) : Result :=
  .next ((load8 (.reg .b) (.imm n) s).advance 2)

/-- `LD C,d8` (0x0E, R183). -/
def execLdCImm (n : Byte) (s : State) : Result :=
  .next ((load8 (.reg .c) (.imm n) s).advance 2)

/-- `LD D,d8` (0x16, R183). -/
def execLdDImm (n : Byte) (s : State) : Result :=
  .next ((load8 (.reg .d) (.imm n) s).advance 2)

/-- `LD E,d8` (0x1E, R183). -/
def execLdEImm (n : Byte) (s : State) : Result :=
  .next ((load8 (.reg .e) (.imm n) s).advance 2)

/-- `LD H,d8` (0x26, R183). -/
def execLdHImm (n : Byte) (s : State) : Result :=
  .next ((load8 (.reg .h) (.imm n) s).advance 2)

/-- `LD L,d8` (0x2E, R183). -/
def execLdLImm (n : Byte) (s : State) : Result :=
  .next ((load8 (.reg .l) (.imm n) s).advance 2)

/-- `LD A,d8` (0x3E, R183). -/
def execLdAImm (n : Byte) (s : State) : Result :=
  .next ((load8 (.reg .a) (.imm n) s).advance 2)

/-- `LD (HL),d8` (0x36, R184). -/
def execLdMemHLImm (n : Byte) (s : State) : Result :=
  .next ((load8 (.mem .hl) (.imm n) s).advance 2)

end Sys2Proof.Machine
end

