-- ==== Sys2Proof/Machine/LoadIndirect.lean ====
section
/-! DEFINITION. The accumulator loads through BC, DE, HL with post-modification, 0xFF00 + C and an absolute address
(43_loads.md R185 to R196). -/

namespace Sys2Proof.Machine

/-- `LD A,(BC)` (0x0A, R185). -/
def execLdAMemBC (s : State) : Result :=
  .next ((load8 (.reg .a) (.mem .bc) s).advance 1)

/-- `LD A,(DE)` (0x1A, R186). -/
def execLdAMemDE (s : State) : Result :=
  .next ((load8 (.reg .a) (.mem .de) s).advance 1)

/-- `LD (BC),A` (0x02, R187). -/
def execLdMemBCA (s : State) : Result :=
  .next ((load8 (.mem .bc) (.reg .a) s).advance 1)

/-- `LD (DE),A` (0x12, R188). -/
def execLdMemDEA (s : State) : Result :=
  .next ((load8 (.mem .de) (.reg .a) s).advance 1)

/-- `LD (HL+),A` (0x22, R189). -/
def execLdMemHLIncA (s : State) : Result :=
  .next ((load8 (.mem .hlInc) (.reg .a) s).advance 1)

/-- `LD (HL-),A` (0x32, R190). -/
def execLdMemHLDecA (s : State) : Result :=
  .next ((load8 (.mem .hlDec) (.reg .a) s).advance 1)

/-- `LD A,(HL+)` (0x2A, R191). -/
def execLdAMemHLInc (s : State) : Result :=
  .next ((load8 (.reg .a) (.mem .hlInc) s).advance 1)

/-- `LD A,(HL-)` (0x3A, R192). -/
def execLdAMemHLDec (s : State) : Result :=
  .next ((load8 (.reg .a) (.mem .hlDec) s).advance 1)

/-- `LD (C),A` (0xE2, R193). -/
def execLdMemHighCA (s : State) : Result :=
  .next ((load8 (.mem .highC) (.reg .a) s).advance 1)

/-- `LD A,(C)` (0xF2, R194). -/
def execLdAMemHighC (s : State) : Result :=
  .next ((load8 (.reg .a) (.mem .highC) s).advance 1)

/-- `LD (a16),A` (0xEA, R195). -/
def execLdMemAbsA (nn : Word) (s : State) : Result :=
  .next ((load8 (.mem (.abs nn)) (.reg .a) s).advance 3)

/-- `LD A,(a16)` (0xFA, R196). -/
def execLdAMemAbs (nn : Word) (s : State) : Result :=
  .next ((load8 (.reg .a) (.mem (.abs nn)) s).advance 3)

end Sys2Proof.Machine
end

