-- ==== Sys2Proof/Machine/Nop.lean ====
section
/-! DEFINITION. The no-op (R100). -/

namespace Sys2Proof.Machine

/-- `NOP` (0x00, R100). -/
def execNop (s : State) : Result :=
  .next (s.advance 1)

end Sys2Proof.Machine
end

