-- ==== Sys2Proof/Machine/RotateSystem.lean ====
section
/-! DEFINITION. The accumulator rotates and interrupt-disable (44_rotate_system.md). -/

namespace Sys2Proof.Machine

/-- `RLA` (0x17, R220). -/
def execRla (s : State) : Result :=
  .next ((s.setAcc (rotateLeft s.a s.f.c)).advance 1)

/-- `RRA` (0x1F, R221). -/
def execRra (s : State) : Result :=
  .next ((s.setAcc (rotateRight s.a s.f.c)).advance 1)

/-- `DI` (0xF3, R222). -/
def execDi (s : State) : Result :=
  .next ({ s with ime := false }.advance 1)

end Sys2Proof.Machine
end

