-- ==== Sys2Proof/Machine/Undecoded.lean ====
section
/-! DEFINITION. The undecoded opcodes (R89, R90): executing one takes its failure (R241, R242, R245). -/

namespace Sys2Proof.Machine

/-- A reserved opcode (R241): IllegalOpcode with the opcode's address and byte. -/
def execIllegal (op : Byte) (s : State) : Result :=
  .next (s.fail (.illegalOpcode s.pc op))

/-- An unimplemented opcode (R242): UnimplementedOpcode with the opcode's address and byte. -/
def execUnimplemented (op : Byte) (s : State) : Result :=
  .next (s.fail (.unimplementedOpcode s.pc op))

end Sys2Proof.Machine
end

