-- ==== Sys2Proof/WellFormed.lean ====
section
/-! DEFINITION. Which syntax is an instruction: the terms that R94 admits, and the two undecoded opcode sets of R89 and
R90. -/

namespace Sys2Proof

/-- The 11 reserved opcodes (R89). -/
def illegalOpcodes : List Byte :=
  [0xD3, 0xDB, 0xDD, 0xE3, 0xE4, 0xEB, 0xEC, 0xED, 0xF4, 0xFC, 0xFD]

/-- The 74 unimplemented opcodes (R90), line by line as the rule lists them. -/
def unimplementedOpcodes : List Byte :=
  [0x07, 0x08, 0x09, 0x0F, 0x10, 0x19, 0x27, 0x29, 0x2F, 0x37, 0x39, 0x3F, 0x76]
  ++ [0x90, 0x91, 0x92, 0x93, 0x94, 0x95, 0x96, 0x97, 0x98, 0x99, 0x9A, 0x9B, 0x9C, 0x9D, 0x9E, 0x9F]
  ++ [0xA0, 0xA1, 0xA2, 0xA3, 0xA4, 0xA5, 0xA6, 0xA7]
  ++ [0xC0, 0xC1, 0xC4, 0xC5, 0xC7, 0xC8, 0xC9, 0xCB, 0xCC, 0xCD, 0xCF]
  ++ [0xD0, 0xD1, 0xD4, 0xD5, 0xD6, 0xD7, 0xD8, 0xD9, 0xDC, 0xDE, 0xDF]
  ++ [0xE0, 0xE1, 0xE5, 0xE6, 0xE7, 0xE8, 0xEF]
  ++ [0xF0, 0xF1, 0xF5, 0xF7, 0xF8, 0xF9, 0xFB, 0xFF]

/-- "The ALU forms take Reg, MemHL and Imm" (R94). -/
def Src8.aluWf : Src8 → Bool
  | .reg _ => true
  | .imm _ => true
  | .mem .hl => true
  | .mem .bc => false
  | .mem .de => false
  | .mem .hlInc => false
  | .mem .hlDec => false
  | .mem .highC => false
  | .mem (.abs _) => false

/-- "Inc8 and Dec8 take Reg and MemHL" (R94). -/
def Dst8.stepWf : Dst8 → Bool
  | .reg _ => true
  | .mem .hl => true
  | .mem .bc => false
  | .mem .de => false
  | .mem .hlInc => false
  | .mem .hlDec => false
  | .mem .highC => false
  | .mem (.abs _) => false

/-- "The admitted Ld8 pairs" (R94): registers, immediates and (HL) with each other except (HL) with (HL), and every other
memory operand with A only. -/
def ld8PairWf : Dst8 → Src8 → Bool
  | .reg _, .reg _ => true
  | .reg _, .imm _ => true
  | .reg _, .mem .hl => true
  | .reg r, .mem _ => r == .a
  | .mem .hl, .reg _ => true
  | .mem .hl, .imm _ => true
  | .mem _, .reg r => r == .a
  | .mem _, .imm _ => false
  | .mem _, .mem _ => false

/-- The well-formedness check of R94 (92_eei_decisions.md D17): exactly the terms that have an opcode. -/
def Term.wf : Term → Bool
  | .nop => true
  | .add s => s.aluWf
  | .adc s => s.aluWf
  | .cp s => s.aluWf
  | .or s => s.aluWf
  | .xor s => s.aluWf
  | .inc8 d => d.stepWf
  | .dec8 d => d.stepWf
  | .inc16 _ => true
  | .dec16 _ => true
  | .jp _ _ => true
  | .jpHL => true
  | .jr _ _ => true
  | .ld8 d s => ld8PairWf d s
  | .ld16 _ _ => true
  | .rla => true
  | .rra => true
  | .di => true

/-- An undecoded byte is well formed in the class that R89 or R90 puts it in. -/
def Reading.wf : Reading → Bool
  | .term t => t.wf
  | .illegal op => illegalOpcodes.contains op
  | .unimplemented op => unimplementedOpcodes.contains op

/-- The check on an instruction of the table: what it reads as is well formed. -/
def Instr.wf (i : Instr) : Bool := i.reading.wf

end Sys2Proof
end

