-- ==== Sys2Proof/Decode.lean ====
section
/-! DEFINITION. The decoder (30_encoding.md sections 1 to 3), written from the opcode map of section 7, and after it the
encoder, written from the bit fields and field codes of R81 to R84. The two are written from different tables of the
spec, so that their agreement says something. -/

namespace Sys2Proof

open Sys2Proof.Machine (wordOf hiByte loByte)

/-- What one opcode byte is read as (R80, R88): an instruction of format F1, F2 or F3 that takes no, one or two operand
bytes, a reserved byte (R89) or an unimplemented one (R90). -/
inductive Entry where
  | f1 (i : Instr)
  | f2 (k : Byte → Instr)
  | f3 (k : Word → Instr)
  | illegal
  | unimplemented

/-- Row 0x of the opcode map. -/
def opcodeRow0 : List Entry :=
   [.f1 .nop, .f3 .ldBCImm, .f1 .ldMemBCA, .f1 .incBC,
    .f1 .incB, .f1 .decB, .f2 .ldBImm, .unimplemented,
    .unimplemented, .unimplemented, .f1 .ldAMemBC, .f1 .decBC,
    .f1 .incC, .f1 .decC, .f2 .ldCImm, .unimplemented]

/-- Row 1x of the opcode map. -/
def opcodeRow1 : List Entry :=
   [.unimplemented, .f3 .ldDEImm, .f1 .ldMemDEA, .f1 .incDE,
    .f1 .incD, .f1 .decD, .f2 .ldDImm, .f1 .rla,
    .f2 .jrRel, .unimplemented, .f1 .ldAMemDE, .f1 .decDE,
    .f1 .incE, .f1 .decE, .f2 .ldEImm, .f1 .rra]

/-- Row 2x of the opcode map. -/
def opcodeRow2 : List Entry :=
   [.f2 .jrNZRel, .f3 .ldHLImm, .f1 .ldMemHLIncA, .f1 .incHL,
    .f1 .incH, .f1 .decH, .f2 .ldHImm, .unimplemented,
    .f2 .jrZRel, .unimplemented, .f1 .ldAMemHLInc, .f1 .decHL,
    .f1 .incL, .f1 .decL, .f2 .ldLImm, .unimplemented]

/-- Row 3x of the opcode map. -/
def opcodeRow3 : List Entry :=
   [.f2 .jrNCRel, .f3 .ldSPImm, .f1 .ldMemHLDecA, .f1 .incSP,
    .f1 .incMemHL, .f1 .decMemHL, .f2 .ldMemHLImm, .unimplemented,
    .f2 .jrCRel, .unimplemented, .f1 .ldAMemHLDec, .f1 .decSP,
    .f1 .incA, .f1 .decA, .f2 .ldAImm, .unimplemented]

/-- Row 4x of the opcode map. -/
def opcodeRow4 : List Entry :=
   [.f1 .ldBB, .f1 .ldBC, .f1 .ldBD, .f1 .ldBE,
    .f1 .ldBH, .f1 .ldBL, .f1 .ldBMemHL, .f1 .ldBA,
    .f1 .ldCB, .f1 .ldCC, .f1 .ldCD, .f1 .ldCE,
    .f1 .ldCH, .f1 .ldCL, .f1 .ldCMemHL, .f1 .ldCA]

/-- Row 5x of the opcode map. -/
def opcodeRow5 : List Entry :=
   [.f1 .ldDB, .f1 .ldDC, .f1 .ldDD, .f1 .ldDE,
    .f1 .ldDH, .f1 .ldDL, .f1 .ldDMemHL, .f1 .ldDA,
    .f1 .ldEB, .f1 .ldEC, .f1 .ldED, .f1 .ldEE,
    .f1 .ldEH, .f1 .ldEL, .f1 .ldEMemHL, .f1 .ldEA]

/-- Row 6x of the opcode map. -/
def opcodeRow6 : List Entry :=
   [.f1 .ldHB, .f1 .ldHC, .f1 .ldHD, .f1 .ldHE,
    .f1 .ldHH, .f1 .ldHL, .f1 .ldHMemHL, .f1 .ldHA,
    .f1 .ldLB, .f1 .ldLC, .f1 .ldLD, .f1 .ldLE,
    .f1 .ldLH, .f1 .ldLL, .f1 .ldLMemHL, .f1 .ldLA]

/-- Row 7x of the opcode map. -/
def opcodeRow7 : List Entry :=
   [.f1 .ldMemHLB, .f1 .ldMemHLC, .f1 .ldMemHLD, .f1 .ldMemHLE,
    .f1 .ldMemHLH, .f1 .ldMemHLL, .unimplemented, .f1 .ldMemHLA,
    .f1 .ldAB, .f1 .ldAC, .f1 .ldAD, .f1 .ldAE,
    .f1 .ldAH, .f1 .ldAL, .f1 .ldAMemHL, .f1 .ldAA]

/-- Row 8x of the opcode map. -/
def opcodeRow8 : List Entry :=
   [.f1 .addAB, .f1 .addAC, .f1 .addAD, .f1 .addAE,
    .f1 .addAH, .f1 .addAL, .f1 .addAMemHL, .f1 .addAA,
    .f1 .adcAB, .f1 .adcAC, .f1 .adcAD, .f1 .adcAE,
    .f1 .adcAH, .f1 .adcAL, .f1 .adcAMemHL, .f1 .adcAA]

/-- Row 9x of the opcode map. -/
def opcodeRow9 : List Entry :=
   [.unimplemented, .unimplemented, .unimplemented, .unimplemented,
    .unimplemented, .unimplemented, .unimplemented, .unimplemented,
    .unimplemented, .unimplemented, .unimplemented, .unimplemented,
    .unimplemented, .unimplemented, .unimplemented, .unimplemented]

/-- Row Ax of the opcode map. -/
def opcodeRowA : List Entry :=
   [.unimplemented, .unimplemented, .unimplemented, .unimplemented,
    .unimplemented, .unimplemented, .unimplemented, .unimplemented,
    .f1 .xorB, .f1 .xorC, .f1 .xorD, .f1 .xorE,
    .f1 .xorH, .f1 .xorL, .f1 .xorMemHL, .f1 .xorA]

/-- Row Bx of the opcode map. -/
def opcodeRowB : List Entry :=
   [.f1 .orB, .f1 .orC, .f1 .orD, .f1 .orE,
    .f1 .orH, .f1 .orL, .f1 .orMemHL, .f1 .orA,
    .f1 .cpB, .f1 .cpC, .f1 .cpD, .f1 .cpE,
    .f1 .cpH, .f1 .cpL, .f1 .cpMemHL, .f1 .cpA]

/-- Row Cx of the opcode map. -/
def opcodeRowC : List Entry :=
   [.unimplemented, .unimplemented, .f3 .jpNZImm, .f3 .jpImm,
    .unimplemented, .unimplemented, .f2 .addAImm, .unimplemented,
    .unimplemented, .unimplemented, .f3 .jpZImm, .unimplemented,
    .unimplemented, .unimplemented, .f2 .adcAImm, .unimplemented]

/-- Row Dx of the opcode map. -/
def opcodeRowD : List Entry :=
   [.unimplemented, .unimplemented, .f3 .jpNCImm, .illegal,
    .unimplemented, .unimplemented, .unimplemented, .unimplemented,
    .unimplemented, .unimplemented, .f3 .jpCImm, .illegal,
    .unimplemented, .illegal, .unimplemented, .unimplemented]

/-- Row Ex of the opcode map. -/
def opcodeRowE : List Entry :=
   [.unimplemented, .unimplemented, .f1 .ldMemHighCA, .illegal,
    .illegal, .unimplemented, .unimplemented, .unimplemented,
    .unimplemented, .f1 .jpHL, .f3 .ldMemAbsA, .illegal,
    .illegal, .illegal, .f2 .xorImm, .unimplemented]

/-- Row Fx of the opcode map. -/
def opcodeRowF : List Entry :=
   [.unimplemented, .unimplemented, .f1 .ldAMemHighC, .f1 .di,
    .illegal, .unimplemented, .f2 .orImm, .unimplemented,
    .unimplemented, .unimplemented, .f3 .ldAMemAbs, .unimplemented,
    .illegal, .illegal, .f2 .cpImm, .unimplemented]

/-- The opcode map of 30_encoding.md section 7: entry `op` is the row of spec/opcode_table.json whose `match` is `op`. -/
def opcodeMap : List Entry :=
  opcodeRow0 ++ opcodeRow1 ++ opcodeRow2 ++ opcodeRow3 ++ opcodeRow4 ++ opcodeRow5 ++ opcodeRow6 ++ opcodeRow7
  ++ opcodeRow8 ++ opcodeRow9 ++ opcodeRowA ++ opcodeRowB ++ opcodeRowC ++ opcodeRowD ++ opcodeRowE ++ opcodeRowF

/-- `decode(op)` of R88: total, and a function of the opcode byte alone. The map has 256 entries, so the default is
never reached. -/
def decode (op : Byte) : Entry := opcodeMap.getD op.toNat .unimplemented

/-- The length of an instruction in bytes, fixed by its opcode (R91): none for an undecoded opcode. -/
def Entry.length : Entry → Option Nat
  | .f1 _ => some 1
  | .f2 _ => some 2
  | .f3 _ => some 3
  | .illegal => none
  | .unimplemented => none

/-- The instruction of an entry once its operands are read: `n` is imm8 (R85) and `nn` is imm16 (R87). An undecoded
opcode `op` becomes the instruction that records it; no operand is used. -/
def Entry.instr (op n : Byte) (nn : Word) : Entry → Instr
  | .f1 i => i
  | .f2 k => k n
  | .f3 k => k nn
  | .illegal => .illegal op
  | .unimplemented => .unimplemented op

/-- Why a list of bytes is not an instruction: it is too short. Every opcode byte itself has a reading (R88). -/
inductive DecodeError where
  | noOpcode
  | missingOperand
deriving DecidableEq, Repr

/-- The instruction at the head of a list of bytes, with the rest of the list; a word operand has its low byte first
(R87). -/
def decodeBytes : List Byte → Except DecodeError (Instr × List Byte)
  | [] => .error .noOpcode
  | op :: rest =>
    match decode op with
    | .f1 i => .ok (i, rest)
    | .f2 k =>
      match rest with
      | n :: rest => .ok (k n, rest)
      | [] => .error .missingOperand
    | .f3 k =>
      match rest with
      | lo :: hi :: rest => .ok (k (wordOf hi lo), rest)
      | [_] => .error .missingOperand
      | [] => .error .missingOperand
    | .illegal => .ok (.illegal op, rest)
    | .unimplemented => .ok (.unimplemented op, rest)

/-- The bytes of an instruction given as the number `w` of `nbits` bits, the first byte its low eight bits; the bits
above `nbits` are 0, up to the longest instruction of three bytes. -/
def tableWordBytes (nbits w : Nat) : List Byte :=
  let v := w % 2 ^ nbits
  [BitVec.ofNat 8 v, BitVec.ofNat 8 (v / 2 ^ 8), BitVec.ofNat 8 (v / 2 ^ 16)]

/-- The instruction the decoder reads from a word of spec/opcode_table.json. -/
def decodeTableWord (nbits w : Nat) : Option Instr :=
  match decodeBytes (tableWordBytes nbits w) with
  | .ok (i, _) => some i
  | .error _ => none

/-! ### The encoder -/

/-- The r8 field code of a register (R82). -/
def Reg8.code : Reg8 → BitVec 3
  | .b => 0
  | .c => 1
  | .d => 2
  | .e => 3
  | .h => 4
  | .l => 5
  | .a => 7

/-- The r8 field code of `(HL)` (R82). -/
def memHLCode : BitVec 3 := 6

/-- The r16 field code (R83). -/
def Reg16.code : Reg16 → BitVec 2
  | .bc => 0
  | .de => 1
  | .hl => 2
  | .sp => 3

/-- The condition field code (R84). -/
def Cond.code : Cond → BitVec 2
  | .nz => 0
  | .z => 1
  | .nc => 2
  | .c => 3

/-- An opcode from its fields x = op[7:6], y = op[5:3] and z = op[2:0] (R81). -/
def opXYZ (x : BitVec 2) (y z : BitVec 3) : Byte := x ++ y ++ z

/-- An opcode of quadrant x with the field p = op[5:4] and the four low bits (R81). -/
def opXP (x p : BitVec 2) (low : BitVec 4) : Byte := x ++ p ++ low

/-- The two operand bytes of a word, low byte first (R67, R87). -/
def wordBytes (nn : Word) : List Byte := [loByte nn, hiByte nn]

/-- The accumulator operations: `0b10 yyy zzz` on r8[z] and `0b11 yyy 110` on an immediate, y choosing the operation
(30_encoding.md section 7). A memory operand other than (HL) has no encoding. -/
def encodeAlu (y : BitVec 3) : Src8 → List Byte
  | .reg r => [opXYZ 0b10 y r.code]
  | .mem .hl => [opXYZ 0b10 y memHLCode]
  | .imm n => [opXYZ 0b11 y 0b110, n]
  | .mem .bc => []
  | .mem .de => []
  | .mem .hlInc => []
  | .mem .hlDec => []
  | .mem .highC => []
  | .mem (.abs _) => []

/-- INC and DEC of a byte: `0b00 yyy zzz` with z choosing the operation (R142, R145). -/
def encodeStep (z : BitVec 3) : Dst8 → List Byte
  | .reg r => [opXYZ 0b00 r.code z]
  | .mem .hl => [opXYZ 0b00 memHLCode z]
  | .mem .bc => []
  | .mem .de => []
  | .mem .hlInc => []
  | .mem .hlDec => []
  | .mem .highC => []
  | .mem (.abs _) => []

/-- LD A,(x) (R185, R186, R191, R192, R194, R196). -/
def encodeLoadA : Mem8 → List Byte
  | .bc => [0x0A]
  | .de => [0x1A]
  | .hl => [opXYZ 0b01 Reg8.a.code memHLCode]
  | .hlInc => [0x2A]
  | .hlDec => [0x3A]
  | .highC => [0xF2]
  | .abs nn => 0xFA :: wordBytes nn

/-- LD (x),A (R187 to R190, R193, R195). -/
def encodeStoreA : Mem8 → List Byte
  | .bc => [0x02]
  | .de => [0x12]
  | .hl => [opXYZ 0b01 memHLCode Reg8.a.code]
  | .hlInc => [0x22]
  | .hlDec => [0x32]
  | .highC => [0xE2]
  | .abs nn => 0xEA :: wordBytes nn

/-- The byte loads: `0b01 yyy zzz` between r8 operands, `0b00 yyy 110` from an immediate, and the loads that only A has
(R180 to R196). -/
def encodeLd8 : Dst8 → Src8 → List Byte
  | .reg r, .reg s => [opXYZ 0b01 r.code s.code]
  | .reg r, .imm n => [opXYZ 0b00 r.code 0b110, n]
  | .reg r, .mem .hl => [opXYZ 0b01 r.code memHLCode]
  | .reg r, .mem m => if r = .a then encodeLoadA m else []
  | .mem .hl, .reg s => [opXYZ 0b01 memHLCode s.code]
  | .mem .hl, .imm n => [opXYZ 0b00 memHLCode 0b110, n]
  | .mem m, .reg s => if s = .a then encodeStoreA m else []
  | .mem _, .imm _ => []
  | .mem _, .mem _ => []

/-- The bytes of a term; the empty list for a term that R94 does not admit. -/
def Term.encode : Term → List Byte
  | .nop => [0x00]
  | .add s => encodeAlu 0 s
  | .adc s => encodeAlu 1 s
  | .xor s => encodeAlu 5 s
  | .or s => encodeAlu 6 s
  | .cp s => encodeAlu 7 s
  | .inc8 d => encodeStep 0b100 d
  | .dec8 d => encodeStep 0b101 d
  | .inc16 p => [opXP 0b00 p.code 0b0011]
  | .dec16 p => [opXP 0b00 p.code 0b1011]
  | .jp none nn => 0xC3 :: wordBytes nn
  | .jp (some cc) nn => opXYZ 0b11 (0b0#1 ++ cc.code) 0b010 :: wordBytes nn
  | .jpHL => [0xE9]
  | .jr none e => [0x18, e]
  | .jr (some cc) e => [opXYZ 0b00 (0b1#1 ++ cc.code) 0b000, e]
  | .ld8 d s => encodeLd8 d s
  | .ld16 p nn => opXP 0b00 p.code 0b0001 :: wordBytes nn
  | .rla => [0x17]
  | .rra => [0x1F]
  | .di => [0xF3]

/-- The bytes of what an instruction reads as; an undecoded opcode is its own byte (R91). -/
def Reading.encode : Reading → List Byte
  | .term t => t.encode
  | .illegal op => [op]
  | .unimplemented op => [op]

/-- The bytes of an instruction. -/
def encode (i : Instr) : List Byte := i.reading.encode

end Sys2Proof
end

