-- ==== Sys2Proof/Machine/Fetch.lean ====
section
/-! DEFINITION. Fetching the next instruction from memory (R73, R85 to R87, R92), and placing one where it is fetched. -/

namespace Sys2Proof.Machine

/-- The opcode byte at PC (R92). -/
def State.opcode (s : State) : Byte := s.readByte s.pc

/-- The instruction at PC: the opcode is read and decoded, and its operand bytes are read at pc + 1 and pc + 2
(R85, R87, R92). Reads have no effect (R70), so reading operands that an undecoded opcode does not have shows nowhere. -/
def State.fetch (s : State) : Instr :=
  (decode s.opcode).instr s.opcode (s.readByte (s.pc + 1)) (s.readWord (s.pc + 1))

/-- Whether the three addresses from `a` on all have cells, so that an instruction can be placed there. -/
def placeable (a : Word) : Bool := (cellOf a).isSome && (cellOf (a + 1)).isSome && (cellOf (a + 2)).isSome

/-- Bytes put into the cells from address `a` on, as `load` puts them: directly, whatever `ROM_WRITES` is. -/
def Memory.place (a : Word) : List Byte → Memory → Memory
  | [], m => m
  | v :: rest, m =>
    match cellOf a with
    | some k => Memory.place (a + 1) rest (Memory.store m k v)
    | none => Memory.place (a + 1) rest m

/-- The state about to fetch the given bytes: Running, the bytes at PC, and PC moved to the entry point (R271) only
where the addresses at PC have no cells (log entry 4). -/
def State.withFetchBytes (s : State) (bytes : List Byte) : State :=
  let pc := if placeable s.pc then s.pc else 0x0100
  { s with pc := pc, status := .running, mem := Memory.place pc bytes s.mem }

end Sys2Proof.Machine
end

