-- ==== Sys2Proof/Machine/Step.lean ====
section
/-! DEFINITION. One fetch-decode-execute cycle (R92). -/

namespace Sys2Proof.Machine

/-- `step` of R92. Running: the instruction at PC is executed; a step that fails is a next state whose fault status
holds the failure (R245, log entry 3). Failed: the recorded failure again, and nothing changes (R32, R246). -/
def step (s : State) : Host.Outcome State Fault Refusal :=
  match s.status with
  | .running => exec s.fetch s
  | .failed f => .fault f

/-- `s` about to fetch the instruction of a word of spec/opcode_table.json (log entry 4). -/
def State.withFetchWord (s : State) (nbits w : Nat) : State := s.withFetchBytes (tableWordBytes nbits w)

end Sys2Proof.Machine
end

