-- ==== Sys2Proof/Machine/Cycles.lean ====
section
/-! DEFINITION. The cycle costs (70_reset_and_hazards.md R276). A cost is an output of a step: no state, no other rule
and no end of a run reads it (R34). -/

namespace Sys2Proof.Machine

/-- The cost of an accumulator operation by its operand. -/
def aluCost : Src8 → Nat
  | .reg _ => 4
  | .imm _ => 8
  | .mem _ => 8

/-- The cost of INC and DEC of a byte. -/
def stepCost : Dst8 → Nat
  | .reg _ => 4
  | .mem _ => 12

/-- The cost of a byte load. -/
def loadCost : Dst8 → Src8 → Nat
  | .mem (.abs _), _ => 16
  | _, .mem (.abs _) => 16
  | .mem _, .imm _ => 12
  | .reg _, .reg _ => 4
  | .reg _, .imm _ => 8
  | .reg _, .mem _ => 8
  | .mem _, .reg _ => 8
  | .mem _, .mem _ => 8

/-- The table of R276; a conditional jump has its first cost when the condition holds and its second when not. -/
def termCost (f : Flags) : Term → Nat
  | .nop => 4
  | .add x => aluCost x
  | .adc x => aluCost x
  | .cp x => aluCost x
  | .or x => aluCost x
  | .xor x => aluCost x
  | .inc8 x => stepCost x
  | .dec8 x => stepCost x
  | .inc16 _ => 8
  | .dec16 _ => 8
  | .jp cc _ => if taken cc f then 16 else 12
  | .jpHL => 4
  | .jr cc _ => if taken cc f then 12 else 8
  | .ld8 d x => loadCost d x
  | .ld16 _ _ => 12
  | .rla => 4
  | .rra => 4
  | .di => 4

/-- The cost of a successful step that executes `i` with the flags `f`; an undecoded opcode has none. -/
def cycles (i : Instr) (f : Flags) : Option Nat :=
  match i.reading with
  | .term t => some (termCost f t)
  | .illegal _ => none
  | .unimplemented _ => none

end Sys2Proof.Machine
end

