-- ==== Sys2Proof/Machine/Report.lean ====
section
/-! DEFINITION. What a step returns to its caller (R93) and what the optional trace observer is told (R6). Both are
functions of the state before the step and change nothing. -/

namespace Sys2Proof.Machine

/-- A step's result (R93). -/
inductive StepResult where
  | ok (cycles : Nat)
  | failure (f : Fault)
deriving DecidableEq, Repr

/-- What a step that executes `i` in `s` returns: the failure it records, else its cycle cost. `none` would be the result
of a refused step, which no arm answers. -/
def execResult (i : Instr) (s : State) : Option StepResult :=
  match exec i s with
  | .next t =>
    match t.status with
    | .running => (cycles i s.f).map .ok
    | .failed f => some (.failure f)
  | .fault f => some (.failure f)
  | .refused _ => none

/-- What `step` returns in `s` (R92). -/
def stepResult (s : State) : Option StepResult :=
  match s.status with
  | .running => execResult s.fetch s
  | .failed f => some (.failure f)

/-- What the trace observer is told on a step that decodes: PC, the opcode byte and the instruction (R6, R92). -/
structure TraceEvent where
  pc : Word
  opcode : Byte
  instr : Instr
deriving DecidableEq, Repr

/-- The observer is told nothing of a step from a failed state or of an undecoded opcode (R92). -/
def traceOf (s : State) : Option TraceEvent :=
  match s.status with
  | .failed _ => none
  | .running =>
    match s.fetch.reading with
    | .term _ => some { pc := s.pc, opcode := s.opcode, instr := s.fetch }
    | .illegal _ => none
    | .unimplemented _ => none

end Sys2Proof.Machine
end

