-- ==== Sys2Proof/Machine/HostMoves.lean ====
section
/-! DEFINITION. What the host can do to the block (R5, R278): reset with a draw of RAM, load a program, step, and read
or write bytes between steps. -/

namespace Sys2Proof.Machine

/-! ### Reset with any contents of RAM -/

/-- Whether `INIT_RAM` covers the cell: VRAM, ERAM, WRAM, OAM and HRAM bytes 0x00 to 0x7E (R4, R35). -/
def initRamCovers (k : Nat) : Bool := isHome k && decide (0x8000 ≤ k) && k != 0xFFFF

/-- A draw of `INIT_RAM` as memory: ROM is 0x00, and the cells that the draw lists hold what it gives them. -/
def initMemory (draw : List Host.Cell) : Memory :=
  draw.foldl (fun m cell => if initRamCovers cell.1 then Memory.store m cell.1 cell.2 else m) []

/-- The power-on writes of R270: the values for 0xFF00 to 0xFF7F go through `write_byte` and are discarded whatever they
are (log entry 5), then 0xFFFF receives 0x00. -/
def powerOnWrites (io : List (Word × Byte)) (m : Memory) : Memory :=
  let m' := io.foldl
    (fun m w => if region w.1 = .io then Memory.writeByte Config.romWrites m w.1 w.2 else m) m
  Memory.writeByte Config.romWrites m' 0xFFFF 0x00

/-- `reset` of R270 for a draw of `INIT_RAM` and the power-on I/O values. -/
def State.resetWith (draw : List Host.Cell) (io : List (Word × Byte)) : State :=
  { State.reset with mem := powerOnWrites io (initMemory draw) }

/-! ### Loading a program -/

/-- `load(bytes)` (R65): ROM from address 0 on takes at most 0x8000 bytes, and ROM past the end of the input is 0x00
(log entry 7). -/
def State.load (s : State) (bytes : List Byte) : State :=
  { s with mem := Memory.loadFrom 0 bytes (Memory.clearRom s.mem) }

/-! ### The moves -/

/-- The host's interactions (R278). -/
inductive HostMove where
  | reset (draw : List Host.Cell) (io : List (Word × Byte))
  | load (bytes : List Byte)
  | step
  | readByte (a : Word)
  | writeByte (a : Word) (v : Byte)
deriving DecidableEq, Repr

/-- What the block returns to the host (R278). -/
inductive HostReply where
  | nothing
  | byte (v : Byte)
  | result (r : StepResult)
deriving DecidableEq, Repr

/-- The state a call of `step` leaves: a step from a failed state leaves it as it is (R246). -/
def State.afterStep (s : State) : State :=
  match step s with
  | .next t => t
  | .fault _ => s
  | .refused _ => s

/-- What a call of `step` returns. -/
def State.stepReply (s : State) : HostReply :=
  match stepResult s with
  | some r => .result r
  | none => .nothing

/-- One host move: the state after it and what it returns. -/
def HostMove.apply (move : HostMove) (s : State) : State × HostReply :=
  match move with
  | .reset draw io => (State.resetWith draw io, .nothing)
  | .load bytes => (s.load bytes, .nothing)
  | .step => (s.afterStep, s.stepReply)
  | .readByte a => (s, .byte (s.readByte a))
  | .writeByte a v => (s.writeByte a v, .nothing)

/-- The moves that may follow a load: steps, and reads and writes between them (R278). -/
def HostMove.isRunMove : HostMove → Bool
  | .reset _ _ => false
  | .load _ => false
  | .step => true
  | .readByte _ => true
  | .writeByte _ _ => true

/-- The moves between the reset and the load: pokes (R278). -/
def HostMove.isPoke : HostMove → Bool
  | .reset _ _ => false
  | .load _ => false
  | .step => false
  | .readByte _ => true
  | .writeByte _ _ => true

/-- After the reset: pokes, then the one load, then the run (R65, R272). -/
def sessionAfterReset : List HostMove → Bool
  | [] => true
  | .load _ :: rest => rest.all HostMove.isRunMove
  | move :: rest => move.isPoke && sessionAfterReset rest

/-- The order the host must keep (R278): reset first and once, load once before the first step. -/
def sessionInOrder : List HostMove → Bool
  | .reset _ _ :: rest => sessionAfterReset rest
  | [] => true
  | .load _ :: _ => false
  | .step :: _ => false
  | .readByte _ :: _ => false
  | .writeByte _ _ :: _ => false

/-- The state after the moves. -/
def afterMoves : List HostMove → State → State
  | [], s => s
  | move :: rest, s => afterMoves rest (move.apply s).1

/-- Whether the host may make the move in the state: it must stop calling `step` after a failure (R278). -/
def HostMove.allowedIn (move : HostMove) (s : State) : Bool :=
  match move with
  | .step => decide (s.status = .running)
  | .reset _ _ => true
  | .load _ => true
  | .readByte _ => true
  | .writeByte _ _ => true

/-- Whether the moves, made from the state on, hold no step after a step that failed. -/
def stopsAfterFailure : List HostMove → State → Bool
  | [], _ => true
  | move :: rest, s => move.allowedIn s && stopsAfterFailure rest (move.apply s).1

/-- A session in which the host does what it must (R278): the moves are in order, and no step follows a failure. The
first move is a reset, so the state it starts from does not matter. -/
def legalSession (moves : List HostMove) : Bool := sessionInOrder moves && stopsAfterFailure moves State.reset

end Sys2Proof.Machine
end

