-- ==== Sys2Proof/Safety.lean ====
section
/-! DEFINITION. The terms that claims about the machine use: successful steps, the ends of a run, the address an
instruction stores to, and the invariants. -/

namespace Sys2Proof

open Sys2Proof.Machine

/-- A state that no failure has ended (R32). -/
def Running (s : State) : Prop := s.status = .running

/-- Exactly `n` successful steps lead from `s` to `t` (R277): every one of them returned Ok. -/
def SuccessfulSteps : Nat → State → State → Prop
  | 0, s, t => s = t ∧ Running s
  | n + 1, s, t => ∃ u, step s = .next u ∧ Running u ∧ SuccessfulSteps n u t

/-- A faulted end of a run (R277 (a)): after `n` successful steps the next one records `f`. -/
def FaultedEnd (n : Nat) (s : State) (f : Fault) : Prop :=
  ∃ t u, SuccessfulSteps n s t ∧ step t = .next u ∧ u.status = .failed f

/-- An infinite run (R277 (c)): every number of steps succeeds. -/
def InfiniteRun (s : State) : Prop := ∀ n, ∃ t, SuccessfulSteps n s t

/-- The memory operand a term writes (R69): the destination of a load or of a read-modify-write. -/
def Term.storeOperand : Term → Option Mem8
  | .ld8 (.mem m) _ => some m
  | .ld8 (.reg _) _ => none
  | .inc8 (.mem m) => some m
  | .inc8 (.reg _) => none
  | .dec8 (.mem m) => some m
  | .dec8 (.reg _) => none
  | .nop => none
  | .add _ => none
  | .adc _ => none
  | .cp _ => none
  | .or _ => none
  | .xor _ => none
  | .inc16 _ => none
  | .dec16 _ => none
  | .jp _ _ => none
  | .jpHL => none
  | .jr _ _ => none
  | .ld16 _ _ => none
  | .rla => none
  | .rra => none
  | .di => none

/-- The address an instruction stores to in a state, by the function its meaning uses (`ea`); none for the forms that
store nothing (R69). -/
def storeAddr (i : Instr) (s : State) : Option Word :=
  match i.reading with
  | .term t => t.storeOperand.map (fun m => ea m s)
  | .illegal _ => none
  | .unimplemented _ => none

/-- The memory is in its canonical form. -/
def MemoryCanonical (s : State) : Prop := Memory.wf s.mem = true

/-- Failures are precise (R245): the state of a failed machine still shows what the failure records. PC is the address
of the failing opcode, the opcode byte is still there, and for a read-modify-write HL is the address without a cell. -/
def FailurePrecise (s : State) : Prop :=
  match s.status with
  | .running => True
  | .failed (.illegalOpcode pc op) => s.pc = pc ∧ s.opcode = op ∧ op ∈ illegalOpcodes
  | .failed (.unimplementedOpcode pc op) => s.pc = pc ∧ s.opcode = op ∧ op ∈ unimplementedOpcodes
  | .failed (.invalidMutableAccess addr pc) =>
    s.pc = pc ∧ s.pair .hl = addr ∧ getMutableByte addr = none ∧ (s.opcode = 0x34 ∨ s.opcode = 0x35)

end Sys2Proof
end

