-- ==== Sys2Proof/Certificates/Slice0/Obligations.lean ====
section
/-! DEFINITION. The statements for the provers. `Spec` holds what they are stated in: the rules' formulas over exact
numbers, each written out again from the rule, and the rows of the opcode table that a rule covers. -/

open Sys2Proof Sys2Proof.Machine

namespace Sys2Proof

/-! ### The vocabulary of the statements -/

/-- `v & 0x0F` as a number. -/
def Spec.low (v : Byte) : Nat := (v &&& 0x0F).toNat

/-- The exact sum of R101. -/
def Spec.sum (a v : Byte) (cin : Bool) : Nat := a.toNat + v.toNat + (if cin then 1 else 0)

/-- The flags of R101. -/
def Spec.addFlags (a v : Byte) (cin : Bool) : Flags where
  z := decide (Spec.sum a v cin % 256 = 0)
  n := false
  h := decide (Spec.low a + Spec.low v + (if cin then 1 else 0) > 0x0F)
  c := decide (Spec.sum a v cin > 0xFF)

/-- The state after ADD or ADC of the byte `v`, an instruction of `len` bytes. -/
def Spec.added (s : State) (v : Byte) (cin : Bool) (len : Word) : State :=
  { s with a := BitVec.ofNat 8 (Spec.sum s.a v cin % 256), f := Spec.addFlags s.a v cin, pc := s.pc + len }

/-- The flags of R102. -/
def Spec.cmpFlags (a b : Byte) : Flags where
  z := decide (((a.toNat : Int) - b.toNat) % 256 = 0)
  n := true
  h := decide (Spec.low a < Spec.low b)
  c := decide (a.toNat < b.toNat)

/-- The state after CP with the byte `v`. -/
def Spec.compared (s : State) (v : Byte) (len : Word) : State :=
  { s with f := Spec.cmpFlags s.a v, pc := s.pc + len }

/-- The flags of OR and XOR. -/
def Spec.logicFlags (res : Nat) : Flags := { z := decide (res = 0), n := false, h := false, c := false }

/-- The state after OR with the byte `v`. -/
def Spec.ored (s : State) (v : Byte) (len : Word) : State :=
  { s with
    a := BitVec.ofNat 8 (s.a.toNat ||| v.toNat), f := Spec.logicFlags (s.a.toNat ||| v.toNat), pc := s.pc + len }

/-- The state after XOR with the byte `v`. -/
def Spec.xored (s : State) (v : Byte) (len : Word) : State :=
  { s with
    a := BitVec.ofNat 8 (s.a.toNat ^^^ v.toNat), f := Spec.logicFlags (s.a.toNat ^^^ v.toNat), pc := s.pc + len }

/-- The result of `inc8` (R140). -/
def Spec.incByte (v : Byte) : Byte := BitVec.ofNat 8 ((v.toNat + 1) % 256)

/-- The flags of `inc8` (R140). -/
def Spec.incFlags (v : Byte) (f : Flags) : Flags where
  z := decide ((v.toNat + 1) % 256 = 0)
  n := false
  h := decide (Spec.low v = 0x0F)
  c := f.c

/-- The result of `dec8` (R141). -/
def Spec.decByte (v : Byte) : Byte := BitVec.ofNat 8 ((v.toNat + 255) % 256)

/-- The flags of `dec8` (R141). -/
def Spec.decFlags (v : Byte) (f : Flags) : Flags where
  z := decide ((v.toNat + 255) % 256 = 0)
  n := true
  h := decide (Spec.low v = 0x00)
  c := f.c

/-- A data register: how it is read and written in the state record (R20, R22). -/
structure Spec.Cell8 where
  get : State → Byte
  put : State → Byte → State

def Spec.regA : Spec.Cell8 := ⟨State.a, fun s v => { s with a := v }⟩
def Spec.regB : Spec.Cell8 := ⟨State.b, fun s v => { s with b := v }⟩
def Spec.regC : Spec.Cell8 := ⟨State.c, fun s v => { s with c := v }⟩
def Spec.regD : Spec.Cell8 := ⟨State.d, fun s v => { s with d := v }⟩
def Spec.regE : Spec.Cell8 := ⟨State.e, fun s v => { s with e := v }⟩
def Spec.regH : Spec.Cell8 := ⟨State.h, fun s v => { s with h := v }⟩
def Spec.regL : Spec.Cell8 := ⟨State.l, fun s v => { s with l := v }⟩

/-- `hi * 256 + lo`. -/
def Spec.join (hi lo : Byte) : Nat := hi.toNat * 256 + lo.toNat

/-- `v[15:8]` of a number below 65536. -/
def Spec.hi (v : Nat) : Byte := BitVec.ofNat 8 (v / 256)

/-- `v[7:0]` of a number. -/
def Spec.lo (v : Nat) : Byte := BitVec.ofNat 8 (v % 256)

/-- A word register: its value as a number, and how a number below 65536 is written to it (R21, R30). -/
structure Spec.Cell16 where
  get : State → Nat
  put : State → Nat → State

def Spec.pairBC : Spec.Cell16 :=
  ⟨fun s => Spec.join s.b s.c, fun s v => { s with b := Spec.hi v, c := Spec.lo v }⟩
def Spec.pairDE : Spec.Cell16 :=
  ⟨fun s => Spec.join s.d s.e, fun s v => { s with d := Spec.hi v, e := Spec.lo v }⟩
def Spec.pairHL : Spec.Cell16 :=
  ⟨fun s => Spec.join s.h s.l, fun s v => { s with h := Spec.hi v, l := Spec.lo v }⟩
def Spec.pairSP : Spec.Cell16 :=
  ⟨fun s => s.sp.toNat, fun s v => { s with sp := BitVec.ofNat 16 v }⟩

/-- The pair views and SP with the record that holds them. -/
def Spec.wordCells : List (Reg16 × Spec.Cell16) :=
  [(.bc, Spec.pairBC), (.de, Spec.pairDE), (.hl, Spec.pairHL), (.sp, Spec.pairSP)]

/-- An address without a cell: 0xFEA0-0xFEFF or 0xFF00-0xFF7F (R58, R59). -/
def Spec.unbacked (a : Word) : Bool := decide (0xFEA0 ≤ a.toNat) && decide (a.toNat ≤ 0xFF7F)

/-- The address that shares an address's cell and is not in the Echo (R56). -/
def Spec.home (a : Word) : Word := if 0xE000 ≤ a.toNat ∧ a.toNat ≤ 0xFDFF then a - 0x2000 else a

/-- Whether a write to the address changes its cell under the policy (R63). -/
def Spec.accepts (p : RomWrites) (a : Word) : Bool :=
  !Spec.unbacked a && (decide (0x8000 ≤ a.toNat) || p == .store)

/-- What address `b` reads as after `write_byte(a, v)` (R61, R63): `v` where the write is accepted and `b` shares its
cell, else what it read as before. -/
def Spec.afterWrite (s : State) (a : Word) (v : Byte) (b : Word) : Byte :=
  if Spec.accepts Config.romWrites a && Spec.home b == Spec.home a then v else s.readByte b

/-- The instruction is encoded as `bytes`, costs `cost` cycles with the flags of `s`, and run in `s` answers the next
state `t`. -/
def Spec.Runs (i : Instr) (bytes : List Byte) (cost : Nat) (s t : State) : Prop :=
  encode i = bytes ∧ cycles i s.f = some cost ∧ exec i s = .next t

/-- The instruction is encoded as `bytes`, costs `cost` cycles, and run in `s` answers a next state that is `u` but for
memory, where address `b` reads as after writing `v` at `a`, for every `b`. -/
def Spec.Stores (i : Instr) (bytes : List Byte) (cost : Nat) (s u : State) (a : Word) (v : Byte) : Prop :=
  encode i = bytes ∧ cycles i s.f = some cost ∧
    ∃ t, exec i s = .next t ∧ t = { u with mem := t.mem } ∧ ∀ b, t.readByte b = Spec.afterWrite s a v b

/-- The bytes of a three-byte instruction. -/
def Spec.word3 (op : Byte) (nn : Word) : List Byte := [op, Spec.lo nn.toNat, Spec.hi nn.toNat]

/-- The register rows of R103: opcode, instruction, the register r. -/
def Spec.addRows : List (Byte × Instr × (State → Byte)) :=
  [(0x80, .addAB, State.b), (0x81, .addAC, State.c),
   (0x82, .addAD, State.d), (0x83, .addAE, State.e),
   (0x84, .addAH, State.h), (0x85, .addAL, State.l),
   (0x87, .addAA, State.a)]

/-- The register rows of R106: opcode, instruction, the register r. -/
def Spec.adcRows : List (Byte × Instr × (State → Byte)) :=
  [(0x88, .adcAB, State.b), (0x89, .adcAC, State.c),
   (0x8A, .adcAD, State.d), (0x8B, .adcAE, State.e),
   (0x8C, .adcAH, State.h), (0x8D, .adcAL, State.l),
   (0x8F, .adcAA, State.a)]

/-- The register rows of R109: opcode, instruction, the register r. -/
def Spec.cpRows : List (Byte × Instr × (State → Byte)) :=
  [(0xB8, .cpB, State.b), (0xB9, .cpC, State.c),
   (0xBA, .cpD, State.d), (0xBB, .cpE, State.e),
   (0xBC, .cpH, State.h), (0xBD, .cpL, State.l),
   (0xBF, .cpA, State.a)]

/-- The register rows of R112: opcode, instruction, the register r. -/
def Spec.orRows : List (Byte × Instr × (State → Byte)) :=
  [(0xB0, .orB, State.b), (0xB1, .orC, State.c),
   (0xB2, .orD, State.d), (0xB3, .orE, State.e),
   (0xB4, .orH, State.h), (0xB5, .orL, State.l),
   (0xB7, .orA, State.a)]

/-- The register rows of R115: opcode, instruction, the register r. -/
def Spec.xorRows : List (Byte × Instr × (State → Byte)) :=
  [(0xA8, .xorB, State.b), (0xA9, .xorC, State.c),
   (0xAA, .xorD, State.d), (0xAB, .xorE, State.e),
   (0xAC, .xorH, State.h), (0xAD, .xorL, State.l),
   (0xAF, .xorA, State.a)]

/-- The rows of R142: opcode, instruction, the register r. -/
def Spec.incRows : List (Byte × Instr × Spec.Cell8) :=
  [(0x04, .incB, Spec.regB), (0x0C, .incC, Spec.regC),
   (0x14, .incD, Spec.regD), (0x1C, .incE, Spec.regE),
   (0x24, .incH, Spec.regH), (0x2C, .incL, Spec.regL),
   (0x3C, .incA, Spec.regA)]

/-- The rows of R145: opcode, instruction, the register r. -/
def Spec.decRows : List (Byte × Instr × Spec.Cell8) :=
  [(0x05, .decB, Spec.regB), (0x0D, .decC, Spec.regC),
   (0x15, .decD, Spec.regD), (0x1D, .decE, Spec.regE),
   (0x25, .decH, Spec.regH), (0x2D, .decL, Spec.regL),
   (0x3D, .decA, Spec.regA)]

/-- The rows of R144: opcode, instruction, the word register rr. -/
def Spec.incPairRows : List (Byte × Instr × Spec.Cell16) :=
  [(0x03, .incBC, Spec.pairBC), (0x13, .incDE, Spec.pairDE),
   (0x23, .incHL, Spec.pairHL), (0x33, .incSP, Spec.pairSP)]

/-- The rows of R147: opcode, instruction, the word register rr. -/
def Spec.decPairRows : List (Byte × Instr × Spec.Cell16) :=
  [(0x0B, .decBC, Spec.pairBC), (0x1B, .decDE, Spec.pairDE),
   (0x2B, .decHL, Spec.pairHL), (0x3B, .decSP, Spec.pairSP)]

/-- The rows of R162: opcode, instruction, the condition. -/
def Spec.jpRows : List (Byte × (Word → Instr) × (Flags → Bool)) :=
  [(0xC2, .jpNZImm, fun f => !f.z), (0xCA, .jpZImm, fun f => f.z),
   (0xD2, .jpNCImm, fun f => !f.c), (0xDA, .jpCImm, fun f => f.c)]

/-- The rows of R165: opcode, instruction, the condition. -/
def Spec.jrRows : List (Byte × (Byte → Instr) × (Flags → Bool)) :=
  [(0x20, .jrNZRel, fun f => !f.z), (0x28, .jrZRel, fun f => f.z),
   (0x30, .jrNCRel, fun f => !f.c), (0x38, .jrCRel, fun f => f.c)]

/-- The 49 rows of R180: opcode, instruction, destination r, source s. -/
def Spec.ldRegRows : List (Byte × Instr × Spec.Cell8 × (State → Byte)) :=
  [(0x40, .ldBB, Spec.regB, State.b), (0x41, .ldBC, Spec.regB, State.c),
   (0x42, .ldBD, Spec.regB, State.d), (0x43, .ldBE, Spec.regB, State.e),
   (0x44, .ldBH, Spec.regB, State.h), (0x45, .ldBL, Spec.regB, State.l),
   (0x47, .ldBA, Spec.regB, State.a), (0x48, .ldCB, Spec.regC, State.b),
   (0x49, .ldCC, Spec.regC, State.c), (0x4A, .ldCD, Spec.regC, State.d),
   (0x4B, .ldCE, Spec.regC, State.e), (0x4C, .ldCH, Spec.regC, State.h),
   (0x4D, .ldCL, Spec.regC, State.l), (0x4F, .ldCA, Spec.regC, State.a),
   (0x50, .ldDB, Spec.regD, State.b), (0x51, .ldDC, Spec.regD, State.c),
   (0x52, .ldDD, Spec.regD, State.d), (0x53, .ldDE, Spec.regD, State.e),
   (0x54, .ldDH, Spec.regD, State.h), (0x55, .ldDL, Spec.regD, State.l),
   (0x57, .ldDA, Spec.regD, State.a), (0x58, .ldEB, Spec.regE, State.b),
   (0x59, .ldEC, Spec.regE, State.c), (0x5A, .ldED, Spec.regE, State.d),
   (0x5B, .ldEE, Spec.regE, State.e), (0x5C, .ldEH, Spec.regE, State.h),
   (0x5D, .ldEL, Spec.regE, State.l), (0x5F, .ldEA, Spec.regE, State.a),
   (0x60, .ldHB, Spec.regH, State.b), (0x61, .ldHC, Spec.regH, State.c),
   (0x62, .ldHD, Spec.regH, State.d), (0x63, .ldHE, Spec.regH, State.e),
   (0x64, .ldHH, Spec.regH, State.h), (0x65, .ldHL, Spec.regH, State.l),
   (0x67, .ldHA, Spec.regH, State.a), (0x68, .ldLB, Spec.regL, State.b),
   (0x69, .ldLC, Spec.regL, State.c), (0x6A, .ldLD, Spec.regL, State.d),
   (0x6B, .ldLE, Spec.regL, State.e), (0x6C, .ldLH, Spec.regL, State.h),
   (0x6D, .ldLL, Spec.regL, State.l), (0x6F, .ldLA, Spec.regL, State.a),
   (0x78, .ldAB, Spec.regA, State.b), (0x79, .ldAC, Spec.regA, State.c),
   (0x7A, .ldAD, Spec.regA, State.d), (0x7B, .ldAE, Spec.regA, State.e),
   (0x7C, .ldAH, Spec.regA, State.h), (0x7D, .ldAL, Spec.regA, State.l),
   (0x7F, .ldAA, Spec.regA, State.a)]

/-- The rows of R181: opcode, instruction, destination r. -/
def Spec.ldFromHLRows : List (Byte × Instr × Spec.Cell8) :=
  [(0x46, .ldBMemHL, Spec.regB), (0x4E, .ldCMemHL, Spec.regC),
   (0x56, .ldDMemHL, Spec.regD), (0x5E, .ldEMemHL, Spec.regE),
   (0x66, .ldHMemHL, Spec.regH), (0x6E, .ldLMemHL, Spec.regL),
   (0x7E, .ldAMemHL, Spec.regA)]

/-- The rows of R182: opcode, instruction, source r. -/
def Spec.ldToHLRows : List (Byte × Instr × (State → Byte)) :=
  [(0x70, .ldMemHLB, State.b), (0x71, .ldMemHLC, State.c),
   (0x72, .ldMemHLD, State.d), (0x73, .ldMemHLE, State.e),
   (0x74, .ldMemHLH, State.h), (0x75, .ldMemHLL, State.l),
   (0x77, .ldMemHLA, State.a)]

/-- The rows of R183: opcode, instruction, destination r. -/
def Spec.ldImmRows : List (Byte × (Byte → Instr) × Spec.Cell8) :=
  [(0x06, .ldBImm, Spec.regB), (0x0E, .ldCImm, Spec.regC),
   (0x16, .ldDImm, Spec.regD), (0x1E, .ldEImm, Spec.regE),
   (0x26, .ldHImm, Spec.regH), (0x2E, .ldLImm, Spec.regL),
   (0x3E, .ldAImm, Spec.regA)]

/-- The rows of R197: opcode, instruction, the word register rr. -/
def Spec.ldWordRows : List (Byte × (Word → Instr) × Spec.Cell16) :=
  [(0x01, .ldBCImm, Spec.pairBC), (0x11, .ldDEImm, Spec.pairDE),
   (0x21, .ldHLImm, Spec.pairHL), (0x31, .ldSPImm, Spec.pairSP)]

/-- What a form does to a flag, as the table after R28 writes it: `-`, `*`, 0 or 1. -/
inductive Spec.FlagEffect where
  | unchanged
  | computed
  | zero
  | one
deriving DecidableEq, Repr

/-- The table after R28, row by row: the effect on Z, N, H and C. -/
def Spec.flagRow : Term → Spec.FlagEffect × Spec.FlagEffect × Spec.FlagEffect × Spec.FlagEffect
  | .nop => (.unchanged, .unchanged, .unchanged, .unchanged)
  | .add _ => (.computed, .zero, .computed, .computed)
  | .adc _ => (.computed, .zero, .computed, .computed)
  | .cp _ => (.computed, .one, .computed, .computed)
  | .or _ => (.computed, .zero, .zero, .zero)
  | .xor _ => (.computed, .zero, .zero, .zero)
  | .inc8 _ => (.computed, .zero, .computed, .unchanged)
  | .dec8 _ => (.computed, .one, .computed, .unchanged)
  | .inc16 _ => (.unchanged, .unchanged, .unchanged, .unchanged)
  | .dec16 _ => (.unchanged, .unchanged, .unchanged, .unchanged)
  | .jp _ _ => (.unchanged, .unchanged, .unchanged, .unchanged)
  | .jpHL => (.unchanged, .unchanged, .unchanged, .unchanged)
  | .jr _ _ => (.unchanged, .unchanged, .unchanged, .unchanged)
  | .ld8 _ _ => (.unchanged, .unchanged, .unchanged, .unchanged)
  | .ld16 _ _ => (.unchanged, .unchanged, .unchanged, .unchanged)
  | .rla => (.zero, .zero, .zero, .computed)
  | .rra => (.zero, .zero, .zero, .computed)
  | .di => (.unchanged, .unchanged, .unchanged, .unchanged)

/-- A flag before and after obeys an effect. -/
def Spec.FlagEffect.Obeyed (e : Spec.FlagEffect) (before after : Bool) : Prop :=
  match e with
  | .unchanged => after = before
  | .computed => True
  | .zero => after = false
  | .one => after = true

/-- Whether a memory operand post-modifies HL (R94). -/
def Spec.movesHL : Mem8 → Bool
  | .hlInc => true
  | .hlDec => true
  | .bc => false
  | .de => false
  | .hl => false
  | .highC => false
  | .abs _ => false

/-- The registers of a word target. -/
def Spec.pairRegs : Reg16 → List Reg8
  | .bc => [.b, .c]
  | .de => [.d, .e]
  | .hl => [.h, .l]
  | .sp => []

/-- HL's registers where a memory operand post-modifies HL. -/
def Spec.movedRegs (m : Mem8) : List Reg8 := if Spec.movesHL m then [.h, .l] else []

/-- The data registers a term may write: its destination, and HL for the post-modifying forms. -/
def Spec.writtenRegs : Term → List Reg8
  | .nop => []
  | .add _ => [.a]
  | .adc _ => [.a]
  | .cp _ => []
  | .or _ => [.a]
  | .xor _ => [.a]
  | .inc8 (.reg r) => [r]
  | .inc8 (.mem _) => []
  | .dec8 (.reg r) => [r]
  | .dec8 (.mem _) => []
  | .inc16 p => Spec.pairRegs p
  | .dec16 p => Spec.pairRegs p
  | .jp _ _ => []
  | .jpHL => []
  | .jr _ _ => []
  | .ld8 (.reg r) (.mem m) => r :: Spec.movedRegs m
  | .ld8 (.reg r) (.reg _) => [r]
  | .ld8 (.reg r) (.imm _) => [r]
  | .ld8 (.mem m) _ => Spec.movedRegs m
  | .ld16 p _ => Spec.pairRegs p
  | .rla => [.a]
  | .rra => [.a]
  | .di => []

/-- The data registers an instruction may write. -/
def Spec.instrRegs (i : Instr) : List Reg8 :=
  match i.reading with
  | .term t => Spec.writtenRegs t
  | .illegal _ => []
  | .unimplemented _ => []

/-- A jump. -/
def Spec.isJump (i : Instr) : Bool :=
  match i.reading with
  | .term (.jp _ _) => true
  | .term .jpHL => true
  | .term (.jr _ _) => true
  | _ => false

/-- An outcome with its next state changed. -/
def Spec.mapNext (g : State → State) : Result → Result
  | .next t => .next (g t)
  | .fault f => .fault f
  | .refused r => .refused r

/-- `n` host steps (R278). -/
def Spec.hostSteps : Nat → State → State
  | 0, s => s
  | n + 1, s => Spec.hostSteps n (HostMove.step.apply s).1

/-- A poke of the host: a read or a write of a byte (R278). -/
def Spec.IsPoke (move : HostMove) : Prop := (∃ a, move = .readByte a) ∨ ∃ a v, move = .writeByte a v

/-- One rotation of the accumulator and the carry (R220). -/
def Spec.turnLeft (p : Byte × Bool) : Byte × Bool := ((rotateLeft p.1 p.2).1, (rotateLeft p.1 p.2).2.c)

end Sys2Proof

/-! ### The statements -/

/-- For every well-formed instruction of the table and every list of bytes after it, decodeBytes on its encoding
followed by that list answers the instruction and the list. Every operand takes every value of its field.
(30_encoding.md sections 1 to 3, R80, R87, R91) -/
def Obligations.DecodeOfEncodeIsIdentity : Prop :=
  ∀ (i : Instr) (rest : List Byte), i.wf = true → decodeBytes (encode i ++ rest) = .ok (i, rest)

/-- For every list of bytes that decodes to an instruction and a rest, the instruction is well formed and its encoding
followed by the rest is the list. (30_encoding.md sections 1 to 3, R88) -/
def Obligations.EncodeOfDecodeIsIdentity : Prop :=
  ∀ (bytes : List Byte) (i : Instr) (rest : List Byte),
    decodeBytes bytes = .ok (i, rest) → i.wf = true ∧ encode i ++ rest = bytes

/-- For every opcode byte: decode answers illegal exactly on the 11 bytes of R89 and unimplemented exactly on the 74
bytes of R90, as the rules list them. (R89, R90) -/
def Obligations.OpcodesDecodeByClass : Prop :=
  ∀ op : Byte,
    (decode op matches .illegal) =
      [0xD3, 0xDB, 0xDD, 0xE3, 0xE4, 0xEB, 0xEC, 0xED, 0xF4, 0xFC, 0xFD].contains op.toNat ∧
    (decode op matches .unimplemented) =
      ([0x07, 0x08, 0x09, 0x0F, 0x10, 0x19, 0x27, 0x29, 0x2F, 0x37, 0x39, 0x3F, 0x76].contains op.toNat
        || (0x90 ≤ op.toNat && op.toNat ≤ 0x9F) || (0xA0 ≤ op.toNat && op.toNat ≤ 0xA7)
        || [0xC0, 0xC1, 0xC4, 0xC5, 0xC7, 0xC8, 0xC9, 0xCB, 0xCC, 0xCD, 0xCF].contains op.toNat
        || [0xD0, 0xD1, 0xD4, 0xD5, 0xD6, 0xD7, 0xD8, 0xD9, 0xDC, 0xDE, 0xDF].contains op.toNat
        || [0xE0, 0xE1, 0xE5, 0xE6, 0xE7, 0xE8, 0xEF].contains op.toNat
        || [0xF0, 0xF1, 0xF5, 0xF7, 0xF8, 0xF9, 0xFB, 0xFF].contains op.toNat)

/-- One instruction of each family, its bytes written out from the rule that gives its encoding, decodes to the
instruction it stands for. (30_encoding.md section 7, R161) -/
def Obligations.WrittenWordsDecode : Prop :=
  decodeBytes [0x00] = .ok (.nop, []) ∧
  decodeBytes [0b10000001] = .ok (.addAC, []) ∧
  decodeBytes [0xCE, 0x0F] = .ok (.adcAImm 0x0F, []) ∧
  decodeBytes [0b10111110] = .ok (.cpMemHL, []) ∧
  decodeBytes [0b10110010] = .ok (.orD, []) ∧
  decodeBytes [0b10101111] = .ok (.xorA, []) ∧
  decodeBytes [0b00100100] = .ok (.incH, []) ∧
  decodeBytes [0b00110101] = .ok (.decMemHL, []) ∧
  decodeBytes [0b00110011] = .ok (.incSP, []) ∧
  decodeBytes [0xC3, 0x50, 0x00] = .ok (.jpImm 0x0050, []) ∧
  decodeBytes [0b00110000, 0xFB] = .ok (.jrNCRel 0xFB, []) ∧
  decodeBytes [0b01100011] = .ok (.ldHE, []) ∧
  decodeBytes [0xEA, 0x34, 0xD2] = .ok (.ldMemAbsA 0xD234, []) ∧
  decodeBytes [0b00010001, 0xFF, 0x00] = .ok (.ldDEImm 0x00FF, []) ∧
  decodeBytes [0x17] = .ok (.rla, []) ∧
  decodeBytes [0xF3] = .ok (.di, []) ∧
  decodeBytes [0xDD] = .ok (.illegal 0xDD, []) ∧
  decodeBytes [0xCB] = .ok (.unimplemented 0xCB, [])

/-- For every opcode byte and bytes after it that decode to an instruction and a rest: a decoded opcode takes exactly
the length of its format, 1, 2 or 3 bytes, whatever the bytes are; an undecoded opcode has no length and takes only
its own byte. (30_encoding.md section 3, R91) -/
def Obligations.LengthIsFixedByOpcode : Prop :=
  ∀ (op : Byte) (bytes : List Byte) (i : Instr) (rest : List Byte),
    decodeBytes (op :: bytes) = .ok (i, rest) →
      bytes.length + 1 = (encode i).length + rest.length ∧
      match (decode op).length with
      | some n => (encode i).length = n ∧ 1 ≤ n ∧ n ≤ 3
      | none => encode i = [op] ∧ rest = bytes

/-- For every term of R94: it is well formed exactly when some instruction of the table reads as it, and then only one
does. (30_encoding.md section 5, R94) -/
def Obligations.WellFormedTermsAreTheTableRows : Prop :=
  ∀ t : Term,
    (t.wf = true ↔ ∃ i : Instr, i.reading = .term t) ∧
    ∀ i j : Instr, i.reading = .term t → j.reading = .term t → i = j

/-- For every running state and well-formed instruction: if the three bytes at PC, PC + 1 and PC + 2 decode to the
instruction, then step answers what exec answers for it in that state. Nothing else is done around exec.
(30_encoding.md section 4, R92) -/
def Obligations.StepRunsDecodedInstruction : Prop :=
  ∀ (s : State) (i : Instr) (rest : List Byte), s.status = .running → i.wf = true →
    decodeBytes [s.readByte s.pc, s.readByte (s.pc + 1), s.readByte (s.pc + 2)] = .ok (i, rest) →
      step s = exec i s

/-- For every instruction and state exec answers a next state; a step of a running state answers a next state and
returns a result. A failure is a next state whose fault status holds it (log entry 3, the model's choice).
(60_exceptions.md section 1, R240) -/
def Obligations.EveryInstructionAnswersANextState : Prop :=
  (∀ (i : Instr) (s : State), ∃ t, exec i s = .next t) ∧
  ∀ s : State, s.status = .running → (∃ t, step s = .next t) ∧ (stepResult s).isSome = true

/-- For every running state and the next state of its step: if that state is Running the step returns Ok with the cost
of the fetched instruction under the flags before the step, which exists; if it is Failed(f) the step returns f.
(30_encoding.md section 4, R93, R276) -/
def Obligations.StepReturnsCyclesOrTheFailure : Prop :=
  ∀ s t : State, s.status = .running → step s = .next t →
    (t.status = .running → ∃ c, cycles s.fetch s.f = some c ∧ stepResult s = some (.ok c)) ∧
    ∀ f, t.status = .failed f → stepResult s = some (.failure f)

/-- For every draw of INIT_RAM in canonical form and every list of power-on I/O values: after reset PC, SP, A, F, B, C,
D, E, H, L, the pair views, IME and the fault status are as the table of R35 says; every ROM byte and the byte at
0xFFFF are 0x00; every other backed address of VRAM, ERAM, WRAM, OAM and HRAM reads as the draw gives it. (R35) -/
def Obligations.ResetGivesThePowerOnState : Prop :=
  ∀ (draw : Memory) (io : List (Word × Byte)), Memory.wf draw = true →
    let s := State.resetWith draw io
    s.pc = 0x0100 ∧ s.sp = 0xFFFE ∧ s.a = 0x01 ∧ packFlags s.f = 0xB0 ∧ s.b = 0x00 ∧ s.c = 0x13 ∧ s.d = 0x00 ∧
    s.e = 0xD8 ∧ s.h = 0x01 ∧ s.l = 0x4D ∧ s.pair .bc = 0x0013 ∧ s.pair .de = 0x00D8 ∧ s.pair .hl = 0x014D ∧
    s.ime = false ∧ s.status = .running ∧
    ∀ a : Word,
      s.readByte a = if 0x8000 ≤ a.toNat ∧ a ≠ 0xFFFF then Memory.readByte draw a else 0x00

/-- For each of BC, DE, HL (and SP as its own cell), every state and every word: the pair reads as first register * 256
+ second; writing a word gives the state whose two registers are the high and the low byte, and nothing else
changed, so it reads back; and writing one data register leaves every other data register as it was. (R21, R22) -/
def Obligations.PairsAreViewsOfTheirRegisters : Prop :=
  (∀ row ∈ Spec.wordCells, ∀ (s : State) (v : Word),
    (s.pair row.1).toNat = row.2.get s ∧ s.setPair row.1 v = row.2.put s v.toNat ∧ (s.setPair row.1 v).pair row.1 = v) ∧
  ∀ (s : State) (r q : Reg8) (v : Byte), (s.setReg r v).reg r = v ∧ (q ≠ r → (s.setReg r v).reg q = s.reg q)

/-- For all four flags: the packed byte is 128 Z + 64 N + 32 H + 16 C, so its low nibble is 0, and unpacking it gives
the flags; for every byte, unpacking ignores the low nibble. (R23, R24) -/
def Obligations.FlagPackingIsLossless : Prop :=
  (∀ f : Flags,
    (packFlags f).toNat = f.z.toNat * 128 + f.n.toNat * 64 + f.h.toNat * 32 + f.c.toNat * 16 ∧
    unpackFlags (packFlags f) = f) ∧
  ∀ v : Byte, packFlags (unpackFlags v) = v &&& 0xF0

/-- For every instruction and state: in the next state IME is what it was, or the instruction is DI and it is 0.
Starting the same instruction with another value of IME gives the same next state with only IME different, and the
same one for DI. IME is 0 after reset. (R31) -/
def Obligations.ImeIsClearedByDiAndReadByNothing : Prop :=
  State.reset.ime = false ∧
  (∀ (i : Instr) (s t : State), exec i s = .next t → t.ime = if i = .di then false else s.ime) ∧
  ∀ (i : Instr) (s : State) (v : Bool),
    exec i { s with ime := v } = Spec.mapNext (fun t => { t with ime := if i = .di then false else v }) (exec i s)

/-- For every instruction other than the three: SP is unchanged in the next state, and starting with another SP gives
the same next state with only SP different. LD SP,d16 gives the same next state whatever SP was. (R30) -/
def Obligations.SpIsOnlyUsedByItsThreeInstructions : Prop :=
  (∀ (i : Instr) (s : State) (v : Word), (∀ nn, i ≠ .ldSPImm nn) → i ≠ .incSP → i ≠ .decSP →
    (∀ t, exec i s = .next t → t.sp = s.sp) ∧
    exec i { s with sp := v } = Spec.mapNext (fun t => { t with sp := v }) (exec i s)) ∧
  ∀ (nn : Word) (s : State) (v : Word), exec (.ldSPImm nn) { s with sp := v } = exec (.ldSPImm nn) s

/-- For every instruction that reads as a term, every running state and next state that is still Running: a flag the
table marks - is unchanged, one marked 0 is 0 and one marked 1 is 1. (10_state.md section 2 (the table after R28)) -/
def Obligations.FlagsChangeAsTheTableSays : Prop :=
  ∀ (i : Instr) (u : Term) (s t : State), i.reading = .term u → exec i s = .next t → t.status = .running →
    (Spec.flagRow u).1.Obeyed s.f.z t.f.z ∧ (Spec.flagRow u).2.1.Obeyed s.f.n t.f.n ∧
    (Spec.flagRow u).2.2.1.Obeyed s.f.h t.f.h ∧ (Spec.flagRow u).2.2.2.Obeyed s.f.c t.f.c

/-- For every instruction, state and next state: every data register that is not the instruction's destination (A for
the accumulator operations and rotates, r, or the two registers of a pair) nor H or L of a post-modifying form keeps
its value. SP keeps its value unless the instruction is LD SP,d16, INC SP or DEC SP. (10_state.md section 6 (R37),
R22) -/
def Obligations.RegistersOutsideTheDestinationAreUnchanged : Prop :=
  ∀ (i : Instr) (s t : State), exec i s = .next t →
    (∀ r : Reg8, r ∉ Spec.instrRegs i → t.reg r = s.reg r) ∧
    ((∀ nn, i ≠ .ldSPImm nn) → i ≠ .incSP → i ≠ .decSP → t.sp = s.sp)

/-- For every well-formed instruction, running state and next state: if the next state is Failed, PC is unchanged; if it
is Running and the instruction is no jump, PC is PC plus the number of bytes of the instruction, modulo 2^16.
(10_state.md section 3 (R29), R91) -/
def Obligations.PcAdvancesByTheLength : Prop :=
  ∀ (i : Instr) (s t : State), i.wf = true → s.status = .running → exec i s = .next t →
    (t.status ≠ .running → t.pc = s.pc) ∧
    (t.status = .running → Spec.isJump i = false → t.pc = s.pc + BitVec.ofNat 16 (encode i).length)

/-- For every offset within each range of the table of R51, region answers the array and the index the table gives; Echo
answers WRAM, and the two unbacked ranges answer Unusable and IO. (20_memory.md section 1 (R51)) -/
def Obligations.AddressMapGivesTheRegions : Prop :=
  (∀ i < 0x8000, region (BitVec.ofNat 16 i) = .rom i) ∧
  (∀ i < 0x2000, region (BitVec.ofNat 16 (0x8000 + i)) = .vram i) ∧
  (∀ i < 0x2000, region (BitVec.ofNat 16 (0xA000 + i)) = .eram i) ∧
  (∀ i < 0x2000, region (BitVec.ofNat 16 (0xC000 + i)) = .wram i) ∧
  (∀ i < 0x1E00, region (BitVec.ofNat 16 (0xE000 + i)) = .wram i) ∧
  (∀ i < 0xA0, region (BitVec.ofNat 16 (0xFE00 + i)) = .oam i) ∧
  (∀ i < 0x60, region (BitVec.ofNat 16 (0xFEA0 + i)) = .unusable) ∧
  (∀ i < 0x80, region (BitVec.ofNat 16 (0xFF00 + i)) = .io) ∧
  ∀ i < 0x80, region (BitVec.ofNat 16 (0xFF80 + i)) = .hram i

/-- For every policy, memory, address, byte and second address: after write_byte(a, v) the second address reads v if a
has a cell, the write is not to ROM under Discard and the two addresses share the cell; else it reads as before.
Under the model's own parameter, only memory changes. (R63) -/
def Obligations.WriteByteChangesTheCellItReaches : Prop :=
  (∀ (p : RomWrites) (m : Memory) (a b : Word) (v : Byte),
    Memory.readByte (Memory.writeByte p m a v) b =
      if Spec.accepts p a = true ∧ Spec.home b = Spec.home a then v else Memory.readByte m b) ∧
  ∀ (s : State) (a : Word) (v : Byte),
    s.writeByte a v = { s with mem := Memory.writeByte Config.romWrites s.mem a v }

/-- For 0xC000 ≤ a ≤ 0xDDFF in every state: a and a + 0x2000 read the same byte, a byte written at either reads back at
the other. For 0xDE00 ≤ a ≤ 0xDFFF a write at a changes what no other address reads. (R56) -/
def Obligations.EchoSharesWramCells : Prop :=
  ∀ (s : State) (a : Word) (v : Byte),
    (0xC000 ≤ a.toNat → a.toNat ≤ 0xDDFF →
      s.readByte (a + 0x2000) = s.readByte a ∧ (s.writeByte a v).readByte (a + 0x2000) = v ∧
      (s.writeByte (a + 0x2000) v).readByte a = v) ∧
    (0xDE00 ≤ a.toNat → a.toNat ≤ 0xDFFF → ∀ b : Word, b ≠ a → (s.writeByte a v).readByte b = s.readByte b)

/-- For every state, address of 0xFEA0-0xFF7F and byte: the address reads 0x00, writing it leaves the state as it was,
and get_mutable_byte fails. Every other address has a mutable cell. (R58, R59) -/
def Obligations.UnbackedAddressesReadZero : Prop :=
  ∀ (s : State) (a : Word) (v : Byte),
    if 0xFEA0 ≤ a.toNat ∧ a.toNat ≤ 0xFF7F then
      s.readByte a = 0x00 ∧ s.writeByte a v = s ∧ getMutableByte a = none
    else (getMutableByte a).isSome = true

/-- For every state and address a, read_word(a) as a number is read_byte(a) + 256 * read_byte(a + 1), where a + 1 wraps
to 0x0000 after 0xFFFF. (R62) -/
def Obligations.ReadWordIsLittleEndian : Prop :=
  ∀ (s : State) (a : Word),
    (s.readWord a).toNat =
      (s.readByte a).toNat + 256 * (s.readByte (BitVec.ofNat 16 ((a.toNat + 1) % 65536))).toNat

/-- For every state, byte list and address: after load an address below 0x8000 reads the byte of the list at that index,
or 0x00 at and past its length; every other address reads as before, nothing but memory changes, and neither depends
on ROM_WRITES. That ROM past the end is 0x00 also where the host had written it is the model's choice (log entry 7).
In a legal session the moves before a load are the reset and then pokes only, the moves after it are steps and pokes
only, a step has a load before it, and the fault status before a step is Running, so no step follows a failing one.
Every session of a reset, pokes, one load, and steps and pokes is in order, and legal exactly when the fault status
before each of its steps is Running; that pokes may stand between the reset and the load, and that legalSession is
where the order is kept, are the model's choice (log entry 8). (20_memory.md section 3 (R65),
70_reset_and_hazards.md section 1 (R272), 70_reset_and_hazards.md section 4 (R278)) -/
def Obligations.LoadCopiesTheProgramIntoRom : Prop :=
  (∀ (s : State) (bytes : List Byte) (a : Word),
    (s.load bytes).readByte a = (if a.toNat < 0x8000 then bytes[a.toNat]?.getD 0x00 else s.readByte a) ∧
    s.load bytes = { s with mem := (s.load bytes).mem }) ∧
  (∀ early late : List HostMove,
    (∀ bytes, legalSession (early ++ .load bytes :: late) = true →
      (∃ draw io pokes, early = .reset draw io :: pokes ∧ ∀ move ∈ pokes, Spec.IsPoke move) ∧
      ∀ move ∈ late, move = .step ∨ Spec.IsPoke move) ∧
    (legalSession (early ++ .step :: late) = true →
      (∃ before bytes between, early = before ++ .load bytes :: between) ∧
      (afterMoves early State.reset).status = .running)) ∧
  ∀ (draw : List Host.Cell) (io : List (Word × Byte)) (pokes run : List HostMove) (bytes : List Byte),
    (∀ move ∈ pokes, Spec.IsPoke move) → (∀ move ∈ run, move = .step ∨ Spec.IsPoke move) →
      sessionInOrder (.reset draw io :: pokes ++ .load bytes :: run) = true ∧
      (legalSession (.reset draw io :: pokes ++ .load bytes :: run) = true ↔
        ∀ early late, run = early ++ .step :: late →
          (afterMoves (.reset draw io :: pokes ++ .load bytes :: early) State.reset).status = .running)

/-- For every instruction, state and next state, and every address b: if the instruction stores nothing, or b does not
share the cell of the address it stores to (computed by the function its meaning uses, in the state before), b reads
as it did. (20_memory.md sections 3 and 4 (R69, R70)) -/
def Obligations.StoresReachOnlyTheirAddress : Prop :=
  ∀ (i : Instr) (s t : State) (b : Word), exec i s = .next t →
    (∀ a, storeAddr i s = some a → Spec.home b ≠ Spec.home a) → t.readByte b = s.readByte b

/-- For every running state in which LD (HL),A is fetched with HL the next address, a backed address outside ROM: the
step answers a next state whose step executes the instruction fetched from it, and the opcode fetched is the byte A
held. (20_memory.md section 5 (R73), 70_reset_and_hazards.md section 2 (R275)) -/
def Obligations.StoredCodeIsFetchedNext : Prop :=
  ∀ s : State, s.status = .running → s.fetch = .ldMemHLA → s.pair .hl = s.pc + 1 → 0x8000 ≤ (s.pc + 1).toNat →
    Spec.unbacked (s.pc + 1) = false →
      ∃ t, step s = .next t ∧ t.opcode = s.a ∧ step t = exec t.fetch t

/-- In every state NOP, encoded 0x00, answers the next state that differs by PC + 1 alone, at 4 cycles; in a state whose
PC is in 0xFEA0-0xFF7F the instruction fetched is NOP. (R100) -/
def Obligations.NopOnlyAdvancesPc : Prop :=
  (∀ s : State, Spec.Runs .nop [0x00] 4 s { s with pc := s.pc + 1 }) ∧
  ∀ s : State, 0xFEA0 ≤ s.pc.toNat → s.pc.toNat ≤ 0xFF7F → s.fetch = .nop

/-- For all bytes and carry-in: the result is the exact sum modulo 256; Z is whether it is 0, N is 0, H whether the low
nibbles and the carry exceed 15, C whether the exact sum exceeds 255. (R101) -/
def Obligations.AdderComputesSumAndFlags : Prop :=
  ∀ (a b : Byte) (cin : Bool), add8 a b cin = (BitVec.ofNat 8 (Spec.sum a b cin % 256), Spec.addFlags a b cin)

/-- For all bytes: Z is whether the difference modulo 256 is 0, N is 1, H whether the low nibble of the first is below
that of the second, C whether the first is below the second as an unsigned byte. (R102) -/
def Obligations.ComparatorComputesFlags : Prop :=
  ∀ a b : Byte, cmp8 a b = Spec.cmpFlags a b

/-- In every state, for each of the seven registers, the byte at HL and every immediate byte: ADD A,x has its stated
encoding and cycle cost and answers the next state in which A is A + x modulo 256, the flags are those of R101
without carry-in, PC is past the instruction, and nothing else changed. (R103, R104, R105) -/
def Obligations.AddSetsAccumulatorAndFlags : Prop :=
  ∀ s : State,
    (∀ row ∈ Spec.addRows, Spec.Runs row.2.1 [row.1] 4 s (Spec.added s (row.2.2 s) false 1)) ∧
    Spec.Runs .addAMemHL [0x86] 8 s (Spec.added s (s.readByte (s.pair .hl)) false 1) ∧
    ∀ n : Byte, Spec.Runs (.addAImm n) [0xC6, n] 8 s (Spec.added s n false 2)

/-- In every state, for each of the seven registers, the byte at HL and every immediate byte: ADC A,x has its stated
encoding and cycle cost and answers the next state in which A is A + x + C modulo 256, the flags are those of R101
with the old C as carry-in, PC is past the instruction, and nothing else changed. (R106, R107, R108) -/
def Obligations.AdcSetsAccumulatorAndFlags : Prop :=
  ∀ s : State,
    (∀ row ∈ Spec.adcRows, Spec.Runs row.2.1 [row.1] 4 s (Spec.added s (row.2.2 s) s.f.c 1)) ∧
    Spec.Runs .adcAMemHL [0x8E] 8 s (Spec.added s (s.readByte (s.pair .hl)) s.f.c 1) ∧
    ∀ n : Byte, Spec.Runs (.adcAImm n) [0xCE, n] 8 s (Spec.added s n s.f.c 2)

/-- In every state, for each of the seven registers, the byte at HL and every immediate byte: CP x has its stated
encoding and cycle cost and answers the next state in which the flags are those of R102 for A and x, PC is past the
instruction, and nothing else changed, A included. (R109, R110, R111) -/
def Obligations.CpSetsOnlyFlags : Prop :=
  ∀ s : State,
    (∀ row ∈ Spec.cpRows, Spec.Runs row.2.1 [row.1] 4 s (Spec.compared s (row.2.2 s) 1)) ∧
    Spec.Runs .cpMemHL [0xBE] 8 s (Spec.compared s (s.readByte (s.pair .hl)) 1) ∧
    ∀ n : Byte, Spec.Runs (.cpImm n) [0xFE, n] 8 s (Spec.compared s n 2)

/-- In every state, for each of the seven registers, the byte at HL and every immediate byte: OR x has its stated
encoding and cycle cost and answers the next state in which A is A | x, Z is whether that is 0, N, H and C are 0, PC
is past the instruction, and nothing else changed. (R112, R113, R114) -/
def Obligations.OrSetsAccumulatorAndFlags : Prop :=
  ∀ s : State,
    (∀ row ∈ Spec.orRows, Spec.Runs row.2.1 [row.1] 4 s (Spec.ored s (row.2.2 s) 1)) ∧
    Spec.Runs .orMemHL [0xB6] 8 s (Spec.ored s (s.readByte (s.pair .hl)) 1) ∧
    ∀ n : Byte, Spec.Runs (.orImm n) [0xF6, n] 8 s (Spec.ored s n 2)

/-- In every state, for each of the seven registers, the byte at HL and every immediate byte: XOR x has its stated
encoding and cycle cost and answers the next state in which A is A ^ x, Z is whether that is 0, N, H and C are 0, PC
is past the instruction, and nothing else changed. (R115, R116, R117) -/
def Obligations.XorSetsAccumulatorAndFlags : Prop :=
  ∀ s : State,
    (∀ row ∈ Spec.xorRows, Spec.Runs row.2.1 [row.1] 4 s (Spec.xored s (row.2.2 s) 1)) ∧
    Spec.Runs .xorMemHL [0xAE] 8 s (Spec.xored s (s.readByte (s.pair .hl)) 1) ∧
    ∀ n : Byte, Spec.Runs (.xorImm n) [0xEE, n] 8 s (Spec.xored s n 2)

/-- For every byte and flags: inc8 gives the byte plus 1 modulo 256 with Z of the result, N = 0 and H when the low
nibble was 0xF; dec8 gives the byte minus 1 modulo 256 with Z of the result, N = 1 and H when the low nibble was
0x0; C is what it was. (R140, R141) -/
def Obligations.StepOfAByteComputesFlags : Prop :=
  ∀ (v : Byte) (f : Flags),
    inc8 v f = (Spec.incByte v, Spec.incFlags v f) ∧ dec8 v f = (Spec.decByte v, Spec.decFlags v f)

/-- In every state, for each of the seven registers: INC r and DEC r have their stated encoding and cost 4 cycles, and
answer the next state in which r is the successor or predecessor modulo 256, the flags are those of R140 or R141, PC
is PC + 1, and nothing else changed. (R142, R145) -/
def Obligations.IncAndDecOfARegister : Prop :=
  ∀ s : State,
    (∀ row ∈ Spec.incRows, Spec.Runs row.2.1 [row.1] 4 s
      { row.2.2.put s (Spec.incByte (row.2.2.get s)) with f := Spec.incFlags (row.2.2.get s) s.f, pc := s.pc + 1 }) ∧
    ∀ row ∈ Spec.decRows, Spec.Runs row.2.1 [row.1] 4 s
      { row.2.2.put s (Spec.decByte (row.2.2.get s)) with f := Spec.decFlags (row.2.2.get s) s.f, pc := s.pc + 1 }

/-- In every state: if HL is in 0xFEA0-0xFF7F, INC (HL) and DEC (HL) answer the state that differs by the fault status
alone, which records InvalidMutableAccess(HL, PC). Else they have their stated encoding, cost 12 cycles, and answer
a next state in which the byte at HL is the successor or predecessor of the byte read (in ROM only under ROM_WRITES
= Store), the flags are those of R140 or R141 for the byte read either way, PC is PC + 1, every address that does
not share the cell reads as before, and nothing else changed. (R143, R146) -/
def Obligations.IncAndDecOfTheByteAtHL : Prop :=
  ∀ s : State,
    if 0xFEA0 ≤ (s.pair .hl).toNat ∧ (s.pair .hl).toNat ≤ 0xFF7F then
      exec .incMemHL s = .next { s with status := .failed (.invalidMutableAccess (s.pair .hl) s.pc) } ∧
      exec .decMemHL s = .next { s with status := .failed (.invalidMutableAccess (s.pair .hl) s.pc) }
    else
      Spec.Stores .incMemHL [0x34] 12 s
        { s with f := Spec.incFlags (s.readByte (s.pair .hl)) s.f, pc := s.pc + 1 }
        (s.pair .hl) (Spec.incByte (s.readByte (s.pair .hl))) ∧
      Spec.Stores .decMemHL [0x35] 12 s
        { s with f := Spec.decFlags (s.readByte (s.pair .hl)) s.f, pc := s.pc + 1 }
        (s.pair .hl) (Spec.decByte (s.readByte (s.pair .hl)))

/-- In every state, for each of BC, DE, HL and SP: INC rr and DEC rr have their stated encoding and cost 8 cycles, and
answer the next state in which rr is its value plus or minus 1 modulo 65536 (both bytes of a pair written), PC is PC
+ 1, and nothing else changed, flags included. (R144, R147) -/
def Obligations.IncAndDecOfAWord : Prop :=
  ∀ s : State,
    (∀ row ∈ Spec.incPairRows, Spec.Runs row.2.1 [row.1] 8 s
      { row.2.2.put s ((row.2.2.get s + 1) % 65536) with pc := s.pc + 1 }) ∧
    ∀ row ∈ Spec.decPairRows, Spec.Runs row.2.1 [row.1] 8 s
      { row.2.2.put s ((row.2.2.get s + 65535) % 65536) with pc := s.pc + 1 }

/-- For all flags the four conditions are Z = 0, Z = 1, C = 0 and C = 1; and every jump, in every state, answers a next
state that differs by PC alone. (R160) -/
def Obligations.JumpsChangeOnlyPc : Prop :=
  (∀ f : Flags, holds .nz f = !f.z ∧ holds .z f = f.z ∧ holds .nc f = !f.c ∧ holds .c f = f.c) ∧
  ∀ (i : Instr) (s : State), Spec.isJump i = true → ∃ target, exec i s = .next { s with pc := target }

/-- In every state and for every word: JP a16, encoded 0xC3 low high, costs 16 cycles and answers the state with PC the
word; for each of NZ, Z, NC, C, JP cc,a16 has its stated encoding and answers the state with PC the word at 16
cycles if the condition holds, else with PC + 3 at 12 cycles; JP HL, encoded 0xE9, costs 4 cycles and answers the
state with PC = H * 256 + L, and no other instruction jumps to HL; nothing else changes, HL included. (R161, R162,
R163) -/
def Obligations.AbsoluteJump : Prop :=
  ∀ (s : State) (nn : Word),
    Spec.Runs (.jpImm nn) (Spec.word3 0xC3 nn) 16 s { s with pc := nn } ∧
    (∀ row ∈ Spec.jpRows, Spec.Runs (row.2.1 nn) (Spec.word3 row.1 nn) (if row.2.2 s.f then 16 else 12) s
      { s with pc := if row.2.2 s.f then nn else s.pc + 3 }) ∧
    Spec.Runs .jpHL [0xE9] 4 s { s with pc := BitVec.ofNat 16 (Spec.join s.h s.l) } ∧
    ∀ i : Instr, i.reading = .term .jpHL → i = .jpHL

/-- In every state and for every displacement byte: JR e8, encoded 0x18 e, costs 12 cycles and answers the state with PC
= PC + 2 + e modulo 2^16, e read as two's complement; for each of NZ, Z, NC, C, JR cc,e8 has its stated encoding and
does so at 12 cycles if the condition holds, else answers PC + 2 at 8 cycles; nothing else changes. (R164, R165) -/
def Obligations.RelativeJump : Prop :=
  ∀ (s : State) (e : Byte),
    Spec.Runs (.jrRel e) [0x18, e] 12 s { s with pc := BitVec.ofInt 16 ((s.pc.toNat : Int) + 2 + e.toInt) } ∧
    ∀ row ∈ Spec.jrRows, Spec.Runs (row.2.1 e) [row.1, e] (if row.2.2 s.f then 12 else 8) s
      { s with pc := if row.2.2 s.f then BitVec.ofInt 16 ((s.pc.toNat : Int) + 2 + e.toInt) else s.pc + 2 }

/-- In every state, for each of the 49 pairs: LD r,s has its stated encoding, costs 4 cycles, and answers the next state
in which r holds what s held, PC is PC + 1, and nothing else changed. (R180) -/
def Obligations.LoadRegisterFromRegister : Prop :=
  ∀ s : State, ∀ row ∈ Spec.ldRegRows,
    Spec.Runs row.2.1 [row.1] 4 s { row.2.2.1.put s (row.2.2.2 s) with pc := s.pc + 1 }

/-- In every state, for each of the seven registers and every byte: LD r,(HL) has its stated encoding, costs 8 cycles,
and answers the next state in which r holds the byte at HL as it was before the step, PC is PC + 1, and nothing else
changed; LD r,d8 has its stated encoding, costs 8 cycles, and answers the next state in which r is the byte, PC is
PC + 2, and nothing else changed. (R181, R183) -/
def Obligations.LoadRegisterFromHLOrImmediate : Prop :=
  ∀ (s : State) (n : Byte),
    (∀ row ∈ Spec.ldFromHLRows, Spec.Runs row.2.1 [row.1] 8 s
      { row.2.2.put s (s.readByte (s.pair .hl)) with pc := s.pc + 1 }) ∧
    ∀ row ∈ Spec.ldImmRows, Spec.Runs (row.2.1 n) [row.1, n] 8 s { row.2.2.put s n with pc := s.pc + 2 }

/-- In every state, for each of the seven registers and every byte: LD (HL),r has its stated encoding, costs 8 cycles,
and answers a next state in which write_byte(HL, r) was done, PC is PC + 1; LD (HL),d8, encoded 0x36 n, costs 12
cycles and answers a next state in which write_byte(HL, n) was done, PC is PC + 2. Every address that does not share
the cell of HL reads as before, an address without a cell takes nothing, and nothing else changed. (R182, R184) -/
def Obligations.StoreAtHL : Prop :=
  ∀ (s : State) (n : Byte),
    (∀ row ∈ Spec.ldToHLRows,
      Spec.Stores row.2.1 [row.1] 8 s { s with pc := s.pc + 1 } (s.pair .hl) (row.2.2 s)) ∧
    Spec.Stores (.ldMemHLImm n) [0x36, n] 12 s { s with pc := s.pc + 2 } (s.pair .hl) n

/-- In every state LD A,(BC), 0x0A, and LD A,(DE), 0x1A, cost 8 cycles and answer the next state in which A is the byte
at BC or DE, PC is PC + 1, and nothing else changed. (R185, R186) -/
def Obligations.LoadAThroughBCAndDE : Prop :=
  ∀ s : State,
    Spec.Runs .ldAMemBC [0x0A] 8 s { s with a := s.readByte (s.pair .bc), pc := s.pc + 1 } ∧
    Spec.Runs .ldAMemDE [0x1A] 8 s { s with a := s.readByte (s.pair .de), pc := s.pc + 1 }

/-- In every state LD (BC),A, 0x02, and LD (DE),A, 0x12, cost 8 cycles and answer a next state in which A was written at
BC or DE, every address that does not share that cell reads as before, PC is PC + 1, and nothing else changed.
(R187, R188) -/
def Obligations.StoreAThroughBCAndDE : Prop :=
  ∀ s : State,
    Spec.Stores .ldMemBCA [0x02] 8 s { s with pc := s.pc + 1 } (s.pair .bc) s.a ∧
    Spec.Stores .ldMemDEA [0x12] 8 s { s with pc := s.pc + 1 } (s.pair .de) s.a

/-- In every state LD (HL+),A, 0x22, and LD (HL-),A, 0x32, cost 8 cycles and answer a next state in which A was written
at the old HL, HL is its value plus or minus 1 modulo 65536, every address that does not share that cell reads as
before, PC is PC + 1, and nothing else changed. (R189, R190) -/
def Obligations.StoreAThroughHLWithPostModify : Prop :=
  ∀ s : State,
    Spec.Stores .ldMemHLIncA [0x22] 8 s
      { Spec.pairHL.put s ((Spec.pairHL.get s + 1) % 65536) with pc := s.pc + 1 } (s.pair .hl) s.a ∧
    Spec.Stores .ldMemHLDecA [0x32] 8 s
      { Spec.pairHL.put s ((Spec.pairHL.get s + 65535) % 65536) with pc := s.pc + 1 } (s.pair .hl) s.a

/-- In every state LD A,(HL+), 0x2A, and LD A,(HL-), 0x3A, cost 8 cycles and answer the next state in which A is the
byte at the old HL, HL is its value plus or minus 1 modulo 65536, PC is PC + 1, and nothing else changed. (R191,
R192) -/
def Obligations.LoadAThroughHLWithPostModify : Prop :=
  ∀ s : State,
    Spec.Runs .ldAMemHLInc [0x2A] 8 s
      { Spec.pairHL.put s ((Spec.pairHL.get s + 1) % 65536) with a := s.readByte (s.pair .hl), pc := s.pc + 1 } ∧
    Spec.Runs .ldAMemHLDec [0x3A] 8 s
      { Spec.pairHL.put s ((Spec.pairHL.get s + 65535) % 65536) with a := s.readByte (s.pair .hl), pc := s.pc + 1 }

/-- In every state LD (C),A, 0xE2, costs 8 cycles and answers a next state in which A was written at 0xFF00 + C (nothing
where that is in the IO window), every address that does not share that cell reads as before, PC is PC + 1, and
nothing else changed; LD A,(C), 0xF2, costs 8 cycles and answers the state in which A is the byte at 0xFF00 + C, PC
is PC + 1, and nothing else changed. (R193, R194) -/
def Obligations.HighPageLoadAndStore : Prop :=
  ∀ s : State,
    Spec.Stores .ldMemHighCA [0xE2] 8 s { s with pc := s.pc + 1 } (BitVec.ofNat 16 (0xFF00 + s.c.toNat)) s.a ∧
    Spec.Runs .ldAMemHighC [0xF2] 8 s
      { s with a := s.readByte (BitVec.ofNat 16 (0xFF00 + s.c.toNat)), pc := s.pc + 1 }

/-- In every state and for every word: LD (a16),A, 0xEA low high, costs 16 cycles and answers a next state in which A
was written at the word, every address that does not share that cell reads as before, PC is PC + 3, and nothing else
changed; LD A,(a16), 0xFA low high, costs 16 cycles and answers the state in which A is the byte at the word, PC is
PC + 3, and nothing else changed. (R195, R196) -/
def Obligations.AbsoluteLoadAndStore : Prop :=
  ∀ (s : State) (nn : Word),
    Spec.Stores (.ldMemAbsA nn) (Spec.word3 0xEA nn) 16 s { s with pc := s.pc + 3 } nn s.a ∧
    Spec.Runs (.ldAMemAbs nn) (Spec.word3 0xFA nn) 16 s { s with a := s.readByte nn, pc := s.pc + 3 }

/-- In every state, for each of BC, DE, HL and SP and every word: LD rr,d16 has its stated encoding with the low byte
first, costs 12 cycles, and answers the next state in which rr is the word (its two registers the high and the low
byte), PC is PC + 3, and nothing else changed. (R197) -/
def Obligations.LoadWordImmediate : Prop :=
  ∀ (s : State) (nn : Word), ∀ row ∈ Spec.ldWordRows,
    Spec.Runs (row.2.1 nn) (Spec.word3 row.1 nn) 12 s { row.2.2.put s nn.toNat with pc := s.pc + 3 }

/-- In every state RLA, 0x17, costs 4 cycles and answers the next state in which A is 2 A + C modulo 256 and C the old
bit 7 of A; RRA, 0x1F, costs 4 cycles and answers the next state in which A is 128 C + A / 2 and C the old bit 0 of
A; in both Z, N and H are 0, PC is PC + 1, and nothing else changed. Nine left rotations restore A and C. (R220,
R221) -/
def Obligations.RotatesThroughCarry : Prop :=
  (∀ s : State,
    Spec.Runs .rla [0x17] 4 s
      { s with
        a := BitVec.ofNat 8 ((s.a.toNat * 2 + s.f.c.toNat) % 256)
        f := { z := false, n := false, h := false, c := decide (128 ≤ s.a.toNat) }
        pc := s.pc + 1 } ∧
    Spec.Runs .rra [0x1F] 4 s
      { s with
        a := BitVec.ofNat 8 (s.f.c.toNat * 128 + s.a.toNat / 2)
        f := { z := false, n := false, h := false, c := decide (s.a.toNat % 2 = 1) }
        pc := s.pc + 1 }) ∧
  ∀ p : Byte × Bool, Spec.turnLeft^[9] p = p

/-- In every state DI, 0xF3, costs 4 cycles and answers the next state in which IME is 0, PC is PC + 1, and nothing else
changed. (R222) -/
def Obligations.DiClearsIme : Prop :=
  ∀ s : State, Spec.Runs .di [0xF3] 4 s { s with ime := false, pc := s.pc + 1 }

/-- For every running state whose opcode byte decodes to illegal, step answers the state that differs by the fault
status alone, Failed(IllegalOpcode(PC, opcode)), and returns that failure, and the step after it is that fault; the
same with UnimplementedOpcode where the byte decodes to unimplemented. The instruction ILLEGAL or UNIMPLEMENTED of
an opcode does so when executed in any state; the two failures have the different codes 1 and 2. (R241, R242) -/
def Obligations.UndecodedOpcodesRecordTheirFailure : Prop :=
  (∀ (op : Byte) (s : State),
    exec (.illegal op) s = .next { s with status := .failed (.illegalOpcode s.pc op) } ∧
    exec (.unimplemented op) s = .next { s with status := .failed (.unimplementedOpcode s.pc op) } ∧
    (Fault.illegalOpcode s.pc op).code = 1 ∧ (Fault.unimplementedOpcode s.pc op).code = 2) ∧
  ∀ s : State, s.status = .running →
    (decode s.opcode = .illegal →
      step s = .next { s with status := .failed (.illegalOpcode s.pc s.opcode) } ∧
      stepResult s = some (.failure (.illegalOpcode s.pc s.opcode)) ∧
      ∀ t, step s = .next t → step t = .fault (.illegalOpcode s.pc s.opcode)) ∧
    (decode s.opcode = .unimplemented →
      step s = .next { s with status := .failed (.unimplementedOpcode s.pc s.opcode) } ∧
      stepResult s = some (.failure (.unimplementedOpcode s.pc s.opcode)) ∧
      ∀ t, step s = .next t → step t = .fault (.unimplementedOpcode s.pc s.opcode))

/-- get_mutable_byte fails exactly on 0xFEA0-0xFF7F. For every instruction, running state and next state whose status
records InvalidMutableAccess: the instruction is INC (HL) or DEC (HL), the recorded address is HL and lies in that
range, the recorded pc is PC, and the next state differs from the state by the fault status alone. Its code is 3.
(R243) -/
def Obligations.OnlyReadModifyWriteRaisesInvalidAccess : Prop :=
  (∀ a : Word, getMutableByte a = none ↔ 0xFEA0 ≤ a.toNat ∧ a.toNat ≤ 0xFF7F) ∧
  ∀ (i : Instr) (s t : State) (addr pc : Word), s.status = .running → exec i s = .next t →
    t.status = .failed (.invalidMutableAccess addr pc) →
      (i = .incMemHL ∨ i = .decMemHL) ∧ addr = s.pair .hl ∧ getMutableByte addr = none ∧ pc = s.pc ∧
      t = { s with status := .failed (.invalidMutableAccess addr pc) } ∧ (Fault.invalidMutableAccess addr pc).code = 3

/-- For every running state and next state of its step whose fault status is Failed(f): the next state is the state with
only the fault status changed, so PC still holds the address of the failing opcode and the registers, flags, IME and
memory are as before, and the step returns f. (R245) -/
def Obligations.FailingStepChangesOnlyTheStatus : Prop :=
  ∀ (s t : State) (f : Fault), s.status = .running → step s = .next t → t.status = .failed f →
    t = { s with status := .failed f } ∧ stepResult s = some (.failure f)

/-- For every state whose fault status is Failed(f): step answers the fault f, the step returns f, and any number of
host steps leaves the state as it is. (R246) -/
def Obligations.FailureIsTerminal : Prop :=
  ∀ (s : State) (f : Fault), s.status = .failed f →
    step s = .fault f ∧ stepResult s = some (.failure f) ∧ ∀ n, Spec.hostSteps n s = s

/-- For every state whose memory lists its cells by strictly rising home addresses and no byte 0x00: the memory of the
next state of a step has that form too. The form is the model's way to write the six arrays down (log entry 6).
(20_memory.md section 1 (R50, R51), 10_state.md section 5 (R33)) -/
def Obligations.StepKeepsMemoryCanonical : Prop :=
  ∀ s t : State, MemoryCanonical s → step s = .next t → MemoryCanonical t

/-- For every state in which a recorded failure is precise, and the next state of its step: where that state is Failed,
PC is the recorded pc and the byte at PC is still the failing opcode; for IllegalOpcode and UnimplementedOpcode it
is the recorded byte and a member of R89 or R90; for InvalidMutableAccess it is 0x34 or 0x35, HL is the recorded
address and that address has no cell. (60_exceptions.md section 2 (R245), 60_exceptions.md section 1 (R240, R243)) -/
def Obligations.StepKeepsFailuresPrecise : Prop :=
  ∀ s t : State, FailurePrecise s → step s = .next t → FailurePrecise t

/-- For State.reset, and for every draw of INIT_RAM and every list of power-on I/O values: the fault status after reset
is Running, so the failure invariant holds, and the memory after reset is canonical. The canonical form is the
model's way to write the six arrays down (log entry 6); the RAM contents of State.reset, the empty draw, are the
model's choice (log entry 2), and so is which I/O values reset takes (log entry 5). (10_state.md section 6 (R35),
70_reset_and_hazards.md section 1 (R270), 60_exceptions.md section 2 (R245)) -/
def Obligations.ResetMeetsTheInvariants : Prop :=
  (State.reset.status = .running ∧ MemoryCanonical State.reset ∧ FailurePrecise State.reset) ∧
  ∀ (draw : List Host.Cell) (io : List (Word × Byte)),
    (State.resetWith draw io).status = .running ∧ MemoryCanonical (State.resetWith draw io) ∧
      FailurePrecise (State.resetWith draw io)

/-- For every host move and every state with canonical memory, the state after the move has canonical memory; and
placing an instruction where it is fetched keeps it too. The canonical form is the model's way to write the six
arrays down (log entry 6), that a move has its effect also out of order is the model's choice (log entry 8), and so
is the way an instruction is placed (log entry 4). (70_reset_and_hazards.md section 4 (R278)) -/
def Obligations.HostMovesKeepMemoryCanonical : Prop :=
  (∀ (move : HostMove) (s : State), MemoryCanonical s → MemoryCanonical (move.apply s).1) ∧
  ∀ (s : State) (nbits w : Nat), MemoryCanonical s → MemoryCanonical (s.withFetchWord nbits w)
end

