-- ==== Sys2Proof/Laws/Decode.lean ====
section
/-! SUPPORT. What the decoder answers. -/

namespace Sys2Proof

/-- The opcode map has an entry for every byte (R88). -/
theorem opcodeMap_length : opcodeMap.length = 256 := by
  simp only [opcodeMap, List.length_append]
  rfl

/-- Three bytes always hold an instruction: the operands an opcode takes, low byte first. -/
theorem decodeBytes_three (op lo hi : Byte) :
    ∃ rest, decodeBytes [op, lo, hi] = .ok ((decode op).instr op lo (Machine.wordOf hi lo), rest) := by
  cases h : decode op <;> simp [decodeBytes, h, Entry.instr]

/-- What an entry of the opcode map must satisfy: its instructions are well formed and are encoded in that opcode and
their operand bytes; an undecoded entry stands at a byte of its class. -/
def Entry.Encodes (op : Byte) : Entry → Prop
  | .f1 i => i.wf = true ∧ encode i = [op]
  | .f2 k => ∀ n, (k n).wf = true ∧ encode (k n) = [op, n]
  | .f3 k => ∀ nn, (k nn).wf = true ∧ encode (k nn) = op :: wordBytes nn
  | .illegal => illegalOpcodes.contains op = true
  | .unimplemented => unimplementedOpcodes.contains op = true

/-- Rows 0x and 1x of the opcode map. -/
theorem decode_encodes_rows0 (k : Nat) (hk : k < 2 ^ 8) (hlo : 0x00 ≤ k) (hhi : k < 0x20) :
    (decode ⟨⟨k, hk⟩⟩).Encodes ⟨⟨k, hk⟩⟩ := by
  interval_cases k
  all_goals first
    | exact ⟨rfl, rfl⟩
    | exact fun n => ⟨rfl, rfl⟩
    | rfl

/-- Rows 2x and 3x of the opcode map. -/
theorem decode_encodes_rows2 (k : Nat) (hk : k < 2 ^ 8) (hlo : 0x20 ≤ k) (hhi : k < 0x40) :
    (decode ⟨⟨k, hk⟩⟩).Encodes ⟨⟨k, hk⟩⟩ := by
  interval_cases k
  all_goals first
    | exact ⟨rfl, rfl⟩
    | exact fun n => ⟨rfl, rfl⟩
    | rfl

/-- Rows 4x and 5x of the opcode map. -/
theorem decode_encodes_rows4 (k : Nat) (hk : k < 2 ^ 8) (hlo : 0x40 ≤ k) (hhi : k < 0x60) :
    (decode ⟨⟨k, hk⟩⟩).Encodes ⟨⟨k, hk⟩⟩ := by
  interval_cases k
  all_goals exact ⟨rfl, rfl⟩

/-- Rows 6x and 7x of the opcode map. -/
theorem decode_encodes_rows6 (k : Nat) (hk : k < 2 ^ 8) (hlo : 0x60 ≤ k) (hhi : k < 0x80) :
    (decode ⟨⟨k, hk⟩⟩).Encodes ⟨⟨k, hk⟩⟩ := by
  interval_cases k
  all_goals first
    | exact ⟨rfl, rfl⟩
    | exact fun n => ⟨rfl, rfl⟩
    | rfl

/-- Rows 8x and 9x of the opcode map. -/
theorem decode_encodes_rows8 (k : Nat) (hk : k < 2 ^ 8) (hlo : 0x80 ≤ k) (hhi : k < 0xA0) :
    (decode ⟨⟨k, hk⟩⟩).Encodes ⟨⟨k, hk⟩⟩ := by
  interval_cases k
  all_goals first
    | exact ⟨rfl, rfl⟩
    | exact fun n => ⟨rfl, rfl⟩
    | rfl

/-- Rows Ax and Bx of the opcode map. -/
theorem decode_encodes_rowsa (k : Nat) (hk : k < 2 ^ 8) (hlo : 0xA0 ≤ k) (hhi : k < 0xC0) :
    (decode ⟨⟨k, hk⟩⟩).Encodes ⟨⟨k, hk⟩⟩ := by
  interval_cases k
  all_goals first
    | exact ⟨rfl, rfl⟩
    | exact fun n => ⟨rfl, rfl⟩
    | rfl

/-- Rows Cx and Dx of the opcode map. -/
theorem decode_encodes_rowsc (k : Nat) (hk : k < 2 ^ 8) (hlo : 0xC0 ≤ k) (hhi : k < 0xE0) :
    (decode ⟨⟨k, hk⟩⟩).Encodes ⟨⟨k, hk⟩⟩ := by
  interval_cases k
  all_goals first
    | exact ⟨rfl, rfl⟩
    | exact fun n => ⟨rfl, rfl⟩
    | rfl

/-- Rows Ex and Fx of the opcode map. -/
theorem decode_encodes_rowse (k : Nat) (hk : k < 2 ^ 8) (hlo : 0xE0 ≤ k) (hhi : k < 0x100) :
    (decode ⟨⟨k, hk⟩⟩).Encodes ⟨⟨k, hk⟩⟩ := by
  interval_cases k
  all_goals first
    | exact ⟨rfl, rfl⟩
    | exact fun n => ⟨rfl, rfl⟩
    | rfl

/-- The opcode map and the field encodings agree on every byte. -/
theorem decode_encodes (op : Byte) : (decode op).Encodes op := by
  obtain ⟨⟨k, hk⟩⟩ := op
  by_cases h0 : k < 0x20
  · exact decode_encodes_rows0 k hk (by omega) h0
  by_cases h1 : k < 0x40
  · exact decode_encodes_rows2 k hk (by omega) h1
  by_cases h2 : k < 0x60
  · exact decode_encodes_rows4 k hk (by omega) h2
  by_cases h3 : k < 0x80
  · exact decode_encodes_rows6 k hk (by omega) h3
  by_cases h4 : k < 0xA0
  · exact decode_encodes_rows8 k hk (by omega) h4
  by_cases h5 : k < 0xC0
  · exact decode_encodes_rowsa k hk (by omega) h5
  by_cases h6 : k < 0xE0
  · exact decode_encodes_rowsc k hk (by omega) h6
  exact decode_encodes_rowse k hk (by omega) hk

end Sys2Proof
end

