-- ==== Sys2Proof/Laws/Memory.lean ====
section
/-! SUPPORT. The laws of the memory: read after write, the frame of a write, and the canonical form. -/

namespace Sys2Proof.Machine

/-! ### Cells -/

theorem Memory.lookup_erase (m : Memory) (k j : Nat) :
    Memory.lookup (Memory.erase m k) j = if j = k then unlistedByte else Memory.lookup m j := by
  unfold Memory.erase
  induction m with
  | nil => simp [Memory.lookup]
  | cons cell rest ih =>
    by_cases hk : cell.1 = k
    · by_cases hj : j = k
      · simpa [hk, hj] using ih
      · have : cell.1 ≠ j := by omega
        simpa [hk, hj, Memory.lookup, this, Ne.symm hj] using ih
    · by_cases hj : cell.1 = j
      · simp [Memory.lookup, hj, show j ≠ k by omega]
      · simpa [Memory.lookup, hk, hj] using ih

theorem Memory.lookup_insertCell_same (m : Memory) (k : Nat) (v : Byte)
    (h : ∀ cell ∈ m, cell.1 ≠ k) : Memory.lookup (Memory.insertCell k v m) k = v := by
  induction m with
  | nil => simp [Memory.insertCell, Memory.lookup]
  | cons cell rest ih =>
    have h1 := h cell (by simp)
    have h2 := ih (fun c hc => h c (by simp [hc]))
    by_cases hk : k < cell.1 <;> simp [Memory.insertCell, Memory.lookup, hk, h1, h2]

theorem Memory.lookup_insertCell_other (m : Memory) (k j : Nat) (v : Byte) (h : j ≠ k) :
    Memory.lookup (Memory.insertCell k v m) j = Memory.lookup m j := by
  induction m with
  | nil => simp [Memory.insertCell, Memory.lookup, Ne.symm h]
  | cons cell rest ih =>
    by_cases hk : k < cell.1 <;> simp [Memory.insertCell, Memory.lookup, hk, ih, Ne.symm h]

/-- A stored byte is read back, and every other cell keeps its byte. -/
@[simp] theorem Memory.lookup_store (m : Memory) (k j : Nat) (v : Byte) :
    Memory.lookup (Memory.store m k v) j = if j = k then v else Memory.lookup m j := by
  unfold Memory.store
  split
  · next hv => rw [Memory.lookup_erase, hv]
  · by_cases hj : j = k
    · subst hj
      rw [Memory.lookup_insertCell_same]
      · simp
      · intro cell hc
        simp only [Memory.erase, List.mem_filter, bne_iff_ne] at hc
        exact hc.2
    · simp [Memory.lookup_insertCell_other _ _ _ _ hj, Memory.lookup_erase, hj]

/-! ### The canonical form -/

theorem Memory.wf_iff (m : Memory) :
    Memory.wf m = true ↔
      m.Pairwise (fun x y => x.1 < y.1) ∧ ∀ cell ∈ m, isHome cell.1 = true ∧ cell.2 ≠ unlistedByte := by
  simp [Memory.wf]

@[simp] theorem Memory.wf_nil : Memory.wf [] = true := rfl

theorem Memory.wf_erase (m : Memory) (k : Nat) (h : Memory.wf m = true) : Memory.wf (Memory.erase m k) = true := by
  rw [Memory.wf_iff] at *
  exact ⟨h.1.filter _, fun cell hc => h.2 cell (List.mem_of_mem_filter hc)⟩

theorem Memory.mem_insertCell (m : Memory) (k : Nat) (v : Byte) (cell : Host.Cell) :
    cell ∈ Memory.insertCell k v m ↔ cell = (k, v) ∨ cell ∈ m := by
  induction m with
  | nil => simp [Memory.insertCell]
  | cons first rest ih =>
    by_cases hk : k < first.1
    · simp [Memory.insertCell, hk]
    · simp [Memory.insertCell, hk, ih, or_left_comm]

theorem Memory.pairwise_insertCell (m : Memory) (k : Nat) (v : Byte)
    (h : m.Pairwise (fun x y => x.1 < y.1)) (hk : ∀ cell ∈ m, cell.1 ≠ k) :
    (Memory.insertCell k v m).Pairwise (fun x y => x.1 < y.1) := by
  induction m with
  | nil => simp [Memory.insertCell]
  | cons first rest ih =>
    have h1 := List.pairwise_cons.mp h
    by_cases hlt : k < first.1
    · simp only [Memory.insertCell, hlt, if_true, List.pairwise_cons]
      exact ⟨fun cell hc => by
        rcases List.mem_cons.mp hc with rfl | hc
        · exact hlt
        · exact lt_trans hlt (h1.1 cell hc), h1⟩
    · simp only [Memory.insertCell, hlt, if_false, List.pairwise_cons]
      refine ⟨fun cell hc => ?_, ih h1.2 (fun c hc => hk c (by simp [hc]))⟩
      rcases (Memory.mem_insertCell rest k v cell).mp hc with rfl | hc
      · have := hk first (by simp)
        simp only
        omega
      · exact h1.1 cell hc

/-- Storing in a home keeps the canonical form. -/
theorem Memory.wf_store (m : Memory) (k : Nat) (v : Byte) (h : Memory.wf m = true) (hk : isHome k = true) :
    Memory.wf (Memory.store m k v) = true := by
  unfold Memory.store
  split
  · exact Memory.wf_erase m k h
  · next hv =>
    have he := (Memory.wf_iff _).mp (Memory.wf_erase m k h)
    rw [Memory.wf_iff]
    refine ⟨Memory.pairwise_insertCell _ k v he.1 ?_, fun cell hc => ?_⟩
    · intro cell hc
      simp only [Memory.erase, List.mem_filter, bne_iff_ne] at hc
      exact hc.2
    · rcases (Memory.mem_insertCell _ k v cell).mp hc with rfl | hc
      · exact ⟨hk, hv⟩
      · exact he.2 cell hc

/-! ### The address map -/

/-- The cell of an address, range by range (R51). -/
theorem cellOf_eq (a : Word) :
    cellOf a = if a.toNat < 0xE000 then some a.toNat
      else if a.toNat < 0xFE00 then some (a.toNat - 0x2000)
      else if a.toNat < 0xFEA0 then some a.toNat
      else if a.toNat < 0xFF80 then none
      else some a.toNat := by
  have := a.isLt
  unfold cellOf region
  simp only
  split_ifs <;> simp only [Region.key, Option.some.injEq] <;> omega

/-- The homes, range by range. -/
theorem isHome_iff (k : Nat) :
    isHome k = true ↔ k < 0xE000 ∨ (0xFE00 ≤ k ∧ k < 0xFEA0) ∨ (0xFF80 ≤ k ∧ k < 0x10000) := by
  have h1 : 0xFE00 + Config.oamSize = 0xFEA0 := rfl
  have h2 : 0xFF80 + Config.hramSize = 0x10000 := rfl
  unfold isHome
  rw [h1, h2]
  simp [or_assoc]

/-- Every cell an address reaches is a home. -/
theorem isHome_of_cellOf (a : Word) (k : Nat) (h : cellOf a = some k) : isHome k = true := by
  have := a.isLt
  rw [cellOf_eq] at h
  rw [isHome_iff]
  split_ifs at h <;> simp only [Option.some.injEq] at h <;> omega

/-! ### The bus -/

/-- What `write_byte` does, in one line: nothing without a cell or in a discarding ROM, else one store (R63). -/
theorem Memory.writeByte_eq (p : RomWrites) (m : Memory) (a : Word) (v : Byte) :
    Memory.writeByte p m a v =
      match cellOf a with
      | some k => if a.toNat < 0x8000 ∧ p = .discard then m else Memory.store m k v
      | none => m := by
  have := a.isLt
  unfold Memory.writeByte cellOf region
  simp only
  cases p <;> split_ifs <;> simp_all [Region.key] <;> omega

/-- Reading after a write (R61, R63): the written cell under the policy, else what was there. -/
theorem Memory.readByte_writeByte (p : RomWrites) (m : Memory) (a b : Word) (v : Byte) :
    Memory.readByte (Memory.writeByte p m a v) b =
      if (cellOf a).isSome ∧ cellOf b = cellOf a ∧ ¬(a.toNat < 0x8000 ∧ p = .discard) then v
      else Memory.readByte m b := by
  rw [Memory.writeByte_eq]
  unfold Memory.readByte
  cases ha : cellOf a with
  | none => simp
  | some k =>
    cases hb : cellOf b with
    | none => simp
    | some j =>
      simp only
      split_ifs <;> simp_all

/-- A write keeps the canonical form. -/
theorem Memory.wf_writeByte (p : RomWrites) (m : Memory) (a : Word) (v : Byte) (h : Memory.wf m = true) :
    Memory.wf (Memory.writeByte p m a v) = true := by
  rw [Memory.writeByte_eq]
  split
  · next k hk =>
    split_ifs
    · exact h
    · exact Memory.wf_store m k v h (isHome_of_cellOf a k hk)
  · exact h

/-- A write outside ROM reaches its cell. -/
theorem State.readByte_writeByte (s : State) (a b : Word) (v : Byte) :
    (s.writeByte a v).readByte b =
      if (cellOf a).isSome ∧ cellOf b = cellOf a ∧ ¬(a.toNat < 0x8000 ∧ Config.romWrites = .discard) then v
      else s.readByte b :=
  Memory.readByte_writeByte _ _ _ _ _

/-- Clearing ROM leaves every cell above it (R65). -/
theorem Memory.lookup_clearRom (m : Memory) (k : Nat) :
    Memory.lookup (Memory.clearRom m) k = if k < 0x8000 then unlistedByte else Memory.lookup m k := by
  unfold Memory.clearRom
  rw [show Config.romSize = 0x8000 from rfl]
  induction m with
  | nil => simp [Memory.lookup]
  | cons cell rest ih =>
    by_cases hc : 0x8000 ≤ cell.1
    · rw [List.filter_cons_of_pos (by simpa using hc)]
      simp only [Memory.lookup, ih]
      split_ifs <;> first | rfl | omega
    · rw [List.filter_cons_of_neg (by simpa using hc), ih]
      simp only [Memory.lookup]
      split_ifs <;> first | rfl | omega

/-- Clearing ROM keeps the canonical form. -/
theorem Memory.wf_clearRom (m : Memory) (h : Memory.wf m = true) : Memory.wf (Memory.clearRom m) = true := by
  rw [Memory.wf_iff] at *
  exact ⟨h.1.filter _, fun cell hc => h.2 cell (List.mem_of_mem_filter hc)⟩

/-- The array copy of `load` keeps the canonical form. -/
theorem Memory.wf_loadFrom (bytes : List Byte) :
    ∀ (i : Nat) (m : Memory), Memory.wf m = true → Memory.wf (Memory.loadFrom i bytes m) = true := by
  induction bytes with
  | nil => intro i m h; exact h
  | cons v rest ih =>
    intro i m h
    unfold Memory.loadFrom
    split
    · next hi =>
      refine ih _ _ (Memory.wf_store m i v h ?_)
      simp only [Config.romSize] at hi
      rw [isHome_iff]
      omega
    · exact h

/-- Placing bytes where they are fetched keeps the canonical form. -/
theorem Memory.wf_place (bytes : List Byte) :
    ∀ (a : Word) (m : Memory), Memory.wf m = true → Memory.wf (Memory.place a bytes m) = true := by
  induction bytes with
  | nil => intro a m h; exact h
  | cons v rest ih =>
    intro a m h
    unfold Memory.place
    split
    · next k hk => exact ih _ _ (Memory.wf_store m k v h (isHome_of_cellOf a k hk))
    · exact ih _ _ h

/-- A draw of RAM is canonical. -/
theorem wf_initMemory (draw : List Host.Cell) : Memory.wf (initMemory draw) = true := by
  unfold initMemory
  suffices ∀ m : Memory, Memory.wf m = true → Memory.wf (draw.foldl (fun m cell =>
      if initRamCovers cell.1 then Memory.store m cell.1 cell.2 else m) m) = true from this [] rfl
  induction draw with
  | nil => intro m h; exact h
  | cons cell rest ih =>
    intro m h
    simp only [List.foldl_cons]
    split
    · next hc =>
      refine ih _ (Memory.wf_store m _ _ h ?_)
      simp only [initRamCovers, Bool.and_eq_true] at hc
      exact hc.1.1
    · exact ih _ h

/-- The canonical form is what reset writes down: its memory lists nothing. -/
theorem reset_memory_wf : Memory.wf State.reset.mem = true := rfl

/-- Resetting with the empty draw is `State.reset`. -/
theorem resetWith_nil : State.resetWith [] [] = State.reset := rfl

end Sys2Proof.Machine
end

