-- ==== Sys2Proof/Laws/State.lean ====
section
/-! SUPPORT. What each update of the state does to each field, so that no proof unfolds a record update. -/

namespace Sys2Proof.Machine

variable (s : State)

@[simp] theorem State.advance_a (n : Word) : (s.advance n).a = s.a := rfl

@[simp] theorem State.advance_f (n : Word) : (s.advance n).f = s.f := rfl

@[simp] theorem State.advance_b (n : Word) : (s.advance n).b = s.b := rfl

@[simp] theorem State.advance_c (n : Word) : (s.advance n).c = s.c := rfl

@[simp] theorem State.advance_d (n : Word) : (s.advance n).d = s.d := rfl

@[simp] theorem State.advance_e (n : Word) : (s.advance n).e = s.e := rfl

@[simp] theorem State.advance_h (n : Word) : (s.advance n).h = s.h := rfl

@[simp] theorem State.advance_l (n : Word) : (s.advance n).l = s.l := rfl

@[simp] theorem State.advance_pc (n : Word) : (s.advance n).pc = s.pc + n := rfl

@[simp] theorem State.advance_sp (n : Word) : (s.advance n).sp = s.sp := rfl

@[simp] theorem State.advance_ime (n : Word) : (s.advance n).ime = s.ime := rfl

@[simp] theorem State.advance_status (n : Word) : (s.advance n).status = s.status := rfl

@[simp] theorem State.advance_mem (n : Word) : (s.advance n).mem = s.mem := rfl

@[simp] theorem State.goto_a (w : Word) : (s.goto w).a = s.a := rfl

@[simp] theorem State.goto_f (w : Word) : (s.goto w).f = s.f := rfl

@[simp] theorem State.goto_b (w : Word) : (s.goto w).b = s.b := rfl

@[simp] theorem State.goto_c (w : Word) : (s.goto w).c = s.c := rfl

@[simp] theorem State.goto_d (w : Word) : (s.goto w).d = s.d := rfl

@[simp] theorem State.goto_e (w : Word) : (s.goto w).e = s.e := rfl

@[simp] theorem State.goto_h (w : Word) : (s.goto w).h = s.h := rfl

@[simp] theorem State.goto_l (w : Word) : (s.goto w).l = s.l := rfl

@[simp] theorem State.goto_pc (w : Word) : (s.goto w).pc = w := rfl

@[simp] theorem State.goto_sp (w : Word) : (s.goto w).sp = s.sp := rfl

@[simp] theorem State.goto_ime (w : Word) : (s.goto w).ime = s.ime := rfl

@[simp] theorem State.goto_status (w : Word) : (s.goto w).status = s.status := rfl

@[simp] theorem State.goto_mem (w : Word) : (s.goto w).mem = s.mem := rfl

@[simp] theorem State.fail_a (x : Fault) : (s.fail x).a = s.a := rfl

@[simp] theorem State.fail_f (x : Fault) : (s.fail x).f = s.f := rfl

@[simp] theorem State.fail_b (x : Fault) : (s.fail x).b = s.b := rfl

@[simp] theorem State.fail_c (x : Fault) : (s.fail x).c = s.c := rfl

@[simp] theorem State.fail_d (x : Fault) : (s.fail x).d = s.d := rfl

@[simp] theorem State.fail_e (x : Fault) : (s.fail x).e = s.e := rfl

@[simp] theorem State.fail_h (x : Fault) : (s.fail x).h = s.h := rfl

@[simp] theorem State.fail_l (x : Fault) : (s.fail x).l = s.l := rfl

@[simp] theorem State.fail_pc (x : Fault) : (s.fail x).pc = s.pc := rfl

@[simp] theorem State.fail_sp (x : Fault) : (s.fail x).sp = s.sp := rfl

@[simp] theorem State.fail_ime (x : Fault) : (s.fail x).ime = s.ime := rfl

@[simp] theorem State.fail_status (x : Fault) : (s.fail x).status = .failed x := rfl

@[simp] theorem State.fail_mem (x : Fault) : (s.fail x).mem = s.mem := rfl

@[simp] theorem State.setAcc_a (o : Byte × Flags) : (s.setAcc o).a = o.1 := rfl

@[simp] theorem State.setAcc_f (o : Byte × Flags) : (s.setAcc o).f = o.2 := rfl

@[simp] theorem State.setAcc_b (o : Byte × Flags) : (s.setAcc o).b = s.b := rfl

@[simp] theorem State.setAcc_c (o : Byte × Flags) : (s.setAcc o).c = s.c := rfl

@[simp] theorem State.setAcc_d (o : Byte × Flags) : (s.setAcc o).d = s.d := rfl

@[simp] theorem State.setAcc_e (o : Byte × Flags) : (s.setAcc o).e = s.e := rfl

@[simp] theorem State.setAcc_h (o : Byte × Flags) : (s.setAcc o).h = s.h := rfl

@[simp] theorem State.setAcc_l (o : Byte × Flags) : (s.setAcc o).l = s.l := rfl

@[simp] theorem State.setAcc_pc (o : Byte × Flags) : (s.setAcc o).pc = s.pc := rfl

@[simp] theorem State.setAcc_sp (o : Byte × Flags) : (s.setAcc o).sp = s.sp := rfl

@[simp] theorem State.setAcc_ime (o : Byte × Flags) : (s.setAcc o).ime = s.ime := rfl

@[simp] theorem State.setAcc_status (o : Byte × Flags) : (s.setAcc o).status = s.status := rfl

@[simp] theorem State.setAcc_mem (o : Byte × Flags) : (s.setAcc o).mem = s.mem := rfl

@[simp] theorem State.writeByte_a (w : Word) (v : Byte) : (s.writeByte w v).a = s.a := rfl

@[simp] theorem State.writeByte_f (w : Word) (v : Byte) : (s.writeByte w v).f = s.f := rfl

@[simp] theorem State.writeByte_b (w : Word) (v : Byte) : (s.writeByte w v).b = s.b := rfl

@[simp] theorem State.writeByte_c (w : Word) (v : Byte) : (s.writeByte w v).c = s.c := rfl

@[simp] theorem State.writeByte_d (w : Word) (v : Byte) : (s.writeByte w v).d = s.d := rfl

@[simp] theorem State.writeByte_e (w : Word) (v : Byte) : (s.writeByte w v).e = s.e := rfl

@[simp] theorem State.writeByte_h (w : Word) (v : Byte) : (s.writeByte w v).h = s.h := rfl

@[simp] theorem State.writeByte_l (w : Word) (v : Byte) : (s.writeByte w v).l = s.l := rfl

@[simp] theorem State.writeByte_pc (w : Word) (v : Byte) : (s.writeByte w v).pc = s.pc := rfl

@[simp] theorem State.writeByte_sp (w : Word) (v : Byte) : (s.writeByte w v).sp = s.sp := rfl

@[simp] theorem State.writeByte_ime (w : Word) (v : Byte) : (s.writeByte w v).ime = s.ime := rfl

@[simp] theorem State.writeByte_status (w : Word) (v : Byte) : (s.writeByte w v).status = s.status := rfl

@[simp] theorem State.writeByte_mem (w : Word) (v : Byte) : (s.writeByte w v).mem = Memory.writeByte Config.romWrites s.mem w v := rfl

@[simp] theorem State.setReg_f (r : Reg8) (v : Byte) : (s.setReg r v).f = s.f := by cases r <;> rfl

@[simp] theorem State.setReg_pc (r : Reg8) (v : Byte) : (s.setReg r v).pc = s.pc := by cases r <;> rfl

@[simp] theorem State.setReg_sp (r : Reg8) (v : Byte) : (s.setReg r v).sp = s.sp := by cases r <;> rfl

@[simp] theorem State.setReg_ime (r : Reg8) (v : Byte) : (s.setReg r v).ime = s.ime := by cases r <;> rfl

@[simp] theorem State.setReg_status (r : Reg8) (v : Byte) : (s.setReg r v).status = s.status := by cases r <;> rfl

@[simp] theorem State.setReg_mem (r : Reg8) (v : Byte) : (s.setReg r v).mem = s.mem := by cases r <;> rfl

@[simp] theorem State.setPair_a (p : Reg16) (v : Word) : (s.setPair p v).a = s.a := by cases p <;> rfl

@[simp] theorem State.setPair_f (p : Reg16) (v : Word) : (s.setPair p v).f = s.f := by cases p <;> rfl

@[simp] theorem State.setPair_pc (p : Reg16) (v : Word) : (s.setPair p v).pc = s.pc := by cases p <;> rfl

@[simp] theorem State.setPair_ime (p : Reg16) (v : Word) : (s.setPair p v).ime = s.ime := by cases p <;> rfl

@[simp] theorem State.setPair_status (p : Reg16) (v : Word) : (s.setPair p v).status = s.status := by cases p <;> rfl

@[simp] theorem State.setPair_mem (p : Reg16) (v : Word) : (s.setPair p v).mem = s.mem := by cases p <;> rfl

/-- A write to one register is read back there and changes no other (R22). -/
@[simp] theorem State.reg_setReg (r q : Reg8) (v : Byte) :
    (s.setReg r v).reg q = if q = r then v else s.reg q := by
  cases r <;> cases q <;> rfl

/-- A register write leaves SP and so its pair view alone. -/
@[simp] theorem State.setReg_pair_sp (r : Reg8) (v : Byte) : (s.setReg r v).pair .sp = s.pair .sp := by
  cases r <;> rfl

/-- Writing the word of the two halves of a word gives the word. -/
@[simp] theorem wordOf_halves (w : Word) : wordOf (hiByte w) (loByte w) = w := by
  apply BitVec.eq_of_getLsbD_eq
  intro i hi
  simp only [wordOf, hiByte, loByte, BitVec.getLsbD_append, BitVec.getLsbD_extractLsb']
  by_cases h : i < 8
  · simp [h]
  · have h2 : i - 8 < 8 := by omega
    have h3 : 8 + (i - 8) = i := by omega
    simp [h, h2, h3]

/-- The halves of a word and a word of two halves as numbers. -/
theorem toNat_wordOf (hi lo : Byte) : (wordOf hi lo).toNat = hi.toNat * 256 + lo.toNat := by
  rw [wordOf, BitVec.toNat_append, Nat.shiftLeft_eq, Nat.mul_comm, ← Nat.two_pow_add_eq_or_of_lt lo.isLt]

theorem toNat_hiByte (w : Word) : (hiByte w).toNat = w.toNat / 256 := by
  have := w.isLt
  simp [hiByte, Nat.shiftRight_eq_div_pow]
  omega

theorem toNat_loByte (w : Word) : (loByte w).toNat = w.toNat % 256 := by
  simp [loByte]

/-- The halves of a word built of two bytes are the bytes. -/
@[simp] theorem hiByte_wordOf (hi lo : Byte) : hiByte (wordOf hi lo) = hi := by
  have := lo.isLt
  apply BitVec.eq_of_toNat_eq
  rw [toNat_hiByte, toNat_wordOf]
  omega

@[simp] theorem loByte_wordOf (hi lo : Byte) : loByte (wordOf hi lo) = lo := by
  have := lo.isLt
  apply BitVec.eq_of_toNat_eq
  rw [toNat_loByte, toNat_wordOf]
  omega

/-- A pair holds what was written to it, and the other pairs keep their values (R21, R22). -/
@[simp] theorem State.pair_setPair (p q : Reg16) (v : Word) :
    (s.setPair p v).pair q = if q = p then v else s.pair q := by
  cases p <;> cases q <;> simp [State.setPair, State.pair]

/-- Registers outside the pair are unchanged by a pair write (R22). -/
theorem State.setPair_reg_other (p : Reg16) (r : Reg8) (v : Word)
    (h : match p with
      | .bc => r ≠ .b ∧ r ≠ .c
      | .de => r ≠ .d ∧ r ≠ .e
      | .hl => r ≠ .h ∧ r ≠ .l
      | .sp => True) : (s.setPair p v).reg r = s.reg r := by
  cases p <;> cases r <;> first | rfl | exact absurd rfl h.1 | exact absurd rfl h.2

end Sys2Proof.Machine
end

