-- ==== Sys2Proof/Laws/Families.lean ====
section
/-! SUPPORT. What each shared operation can do, and the one function of a term that every decoded instruction runs. A
proof over all instructions goes through `exec_of_reading` and the constructors of `Term`. -/

namespace Sys2Proof.Machine

/-! ### A term's meaning in one function -/

/-- The bytes an accumulator operation takes. -/
def srcLength : Src8 → Word
  | .reg _ => 1
  | .imm _ => 2
  | .mem (.abs _) => 3
  | .mem _ => 1

/-- The bytes a byte load takes. -/
def loadLength : Dst8 → Src8 → Word
  | .mem (.abs _), _ => 3
  | .mem _, x => srcLength x
  | .reg _, x => srcLength x

/-- INC and DEC of a byte operand: a register, or the byte at HL. -/
def stepRun (g : Byte → Flags → Byte × Flags) (d : Dst8) (s : State) : State :=
  match d with
  | .reg r => (stepReg g r s).advance 1
  | .mem _ => stepMemHL g s

/-- What a term does to a state. -/
def termRun (t : Term) (s : State) : State :=
  match t with
  | .nop => s.advance 1
  | .add x => (addA x s).advance (srcLength x)
  | .adc x => (adcA x s).advance (srcLength x)
  | .cp x => (cpA x s).advance (srcLength x)
  | .or x => (orA x s).advance (srcLength x)
  | .xor x => (xorA x s).advance (srcLength x)
  | .inc8 d => stepRun inc8 d s
  | .dec8 d => stepRun dec8 d s
  | .inc16 p => (incPair p s).advance 1
  | .dec16 p => (decPair p s).advance 1
  | .jp cc nn => jumpAbs cc nn s
  | .jpHL => s.goto (s.pair .hl)
  | .jr cc e => jumpRel cc e s
  | .ld8 d x => (load8 d x s).advance (loadLength d x)
  | .ld16 p nn => (s.setPair p nn).advance 3
  | .rla => (s.setAcc (rotateLeft s.a s.f.c)).advance 1
  | .rra => (s.setAcc (rotateRight s.a s.f.c)).advance 1
  | .di => { s with ime := false }.advance 1

/-- What a reading does to a state: its term's effect, or the failure of an undecoded opcode. -/
def readingRun (r : Reading) (s : State) : State :=
  match r with
  | .term t => termRun t s
  | .illegal op => s.fail (.illegalOpcode s.pc op)
  | .unimplemented op => s.fail (.unimplementedOpcode s.pc op)

/-- Every instruction answers the next state of what it reads as: no meaning stops. -/
theorem exec_of_reading (i : Instr) (s : State) : exec i s = .next (readingRun i.reading s) := by
  cases i <;> rfl

/-- The term of every well-formed instruction is well formed. -/
theorem wf_of_reading (i : Instr) (t : Term) (h : i.reading = .term t) : t.wf = true := by
  cases i <;> cases h <;> rfl

/-! ### The shared operations, one lemma each -/

theorem addA_eq (x : Src8) (s : State) :
    addA x s = { s with a := (add8 s.a (readSrc x s) false).1, f := (add8 s.a (readSrc x s) false).2 } := rfl

theorem adcA_eq (x : Src8) (s : State) :
    adcA x s = { s with a := (add8 s.a (readSrc x s) s.f.c).1, f := (add8 s.a (readSrc x s) s.f.c).2 } := rfl

theorem cpA_eq (x : Src8) (s : State) : cpA x s = { s with f := cmp8 s.a (readSrc x s) } := rfl

theorem orA_eq (x : Src8) (s : State) :
    orA x s = { s with a := s.a ||| readSrc x s, f := logicFlags (s.a ||| readSrc x s) } := rfl

theorem xorA_eq (x : Src8) (s : State) :
    xorA x s = { s with a := s.a ^^^ readSrc x s, f := logicFlags (s.a ^^^ readSrc x s) } := rfl

/-- INC (HL) and DEC (HL) fail and change nothing else, or change the byte, the flags and PC (R143, R146). -/
theorem stepMemHL_cases (g : Byte → Flags → Byte × Flags) (s : State) :
    (cellOf (s.pair .hl) = none ∧ stepMemHL g s = s.fail (.invalidMutableAccess (s.pair .hl) s.pc)) ∨
    ((cellOf (s.pair .hl)).isSome ∧
      stepMemHL g s = { s with
        f := (g (s.readByte (s.pair .hl)) s.f).2
        pc := s.pc + 1
        mem := (s.writeByte (s.pair .hl) (g (s.readByte (s.pair .hl)) s.f).1).mem }) := by
  unfold stepMemHL getMutableByte
  cases h : cellOf (s.pair .hl) with
  | none => exact .inl ⟨rfl, by simp [h]⟩
  | some k => exact .inr ⟨rfl, by simp only [h]; rfl⟩

theorem jumpAbs_eq (cc : Option Cond) (nn : Word) (s : State) :
    jumpAbs cc nn s = { s with pc := if taken cc s.f then nn else s.pc + 3 } := by
  unfold jumpAbs
  split <;> rfl

theorem jumpRel_eq (cc : Option Cond) (e : Byte) (s : State) :
    jumpRel cc e s = { s with pc := if taken cc s.f then s.pc + 2 + sext16 e else s.pc + 2 } := by
  unfold jumpRel
  split <;> rfl

/-- `write` changes a register or one memory cell, and nothing else (R37). -/
@[simp] theorem writeDst_f (x : Dst8) (v : Byte) (s : State) : (writeDst x v s).f = s.f := by
  cases x <;> simp [writeDst]

@[simp] theorem writeDst_pc (x : Dst8) (v : Byte) (s : State) : (writeDst x v s).pc = s.pc := by
  cases x <;> simp [writeDst]

@[simp] theorem writeDst_sp (x : Dst8) (v : Byte) (s : State) : (writeDst x v s).sp = s.sp := by
  cases x <;> simp [writeDst]

@[simp] theorem writeDst_ime (x : Dst8) (v : Byte) (s : State) : (writeDst x v s).ime = s.ime := by
  cases x <;> simp [writeDst]

@[simp] theorem writeDst_status (x : Dst8) (v : Byte) (s : State) : (writeDst x v s).status = s.status := by
  cases x <;> simp [writeDst]

/-- The post-modification changes HL at most. -/
theorem post_cases (m : Mem8) (s : State) : post m s = s ∨ ∃ w, post m s = s.setPair .hl w := by
  cases m <;> first | exact .inl rfl | exact .inr ⟨_, rfl⟩

theorem postDst_cases (x : Dst8) (s : State) : postDst x s = s ∨ ∃ w, postDst x s = s.setPair .hl w := by
  cases x with
  | reg r => exact .inl rfl
  | mem m => exact post_cases m s

theorem postSrc_cases (x : Src8) (s : State) : postSrc x s = s ∨ ∃ w, postSrc x s = s.setPair .hl w := by
  cases x with
  | reg r => exact .inl rfl
  | imm n => exact .inl rfl
  | mem m => exact post_cases m s

/-- Two post-modifications change HL's bytes at most. -/
theorem posts_frame (d : Dst8) (x : Src8) (s : State) :
    let t := postSrc x (postDst d s)
    t.a = s.a ∧ t.f = s.f ∧ t.b = s.b ∧ t.c = s.c ∧ t.d = s.d ∧ t.e = s.e ∧ t.pc = s.pc ∧ t.sp = s.sp ∧
      t.ime = s.ime ∧ t.status = s.status ∧ t.mem = s.mem := by
  rcases postDst_cases d s with h | ⟨w, h⟩ <;> rcases postSrc_cases x (postDst d s) with h' | ⟨w', h'⟩ <;>
    (dsimp only; rw [h', h]; simp [State.setPair])

/-- A byte load changes no flag, PC, SP, IME or status (43_loads.md). -/
theorem load8_frame (d : Dst8) (x : Src8) (s : State) :
    (load8 d x s).f = s.f ∧ (load8 d x s).pc = s.pc ∧ (load8 d x s).sp = s.sp ∧ (load8 d x s).ime = s.ime ∧
      (load8 d x s).status = s.status := by
  have h := posts_frame d x (writeDst d (readSrc x s) s)
  simp only [writeDst_f, writeDst_pc, writeDst_sp, writeDst_ime, writeDst_status] at h
  unfold load8
  exact ⟨h.2.1, h.2.2.2.2.2.2.1, h.2.2.2.2.2.2.2.1, h.2.2.2.2.2.2.2.2.1, h.2.2.2.2.2.2.2.2.2.1⟩

/-- A byte load writes memory through one write of its destination, or not at all. -/
theorem load8_mem (d : Dst8) (x : Src8) (s : State) :
    (load8 d x s).mem = match d with
      | .reg _ => s.mem
      | .mem m => (s.writeByte (ea m s) (readSrc x s)).mem := by
  have h := (posts_frame d x (writeDst d (readSrc x s) s)).2.2.2.2.2.2.2.2.2.2
  unfold load8
  rw [h]
  cases d <;> simp [writeDst]

/-- A write of a destination keeps the canonical form of memory. -/
theorem wf_writeDst (x : Dst8) (v : Byte) (s : State) (h : Memory.wf s.mem = true) :
    Memory.wf (writeDst x v s).mem = true := by
  cases x with
  | reg r => simpa [writeDst] using h
  | mem m => simpa [writeDst] using Memory.wf_writeByte _ _ _ _ h

end Sys2Proof.Machine
end

