-- ==== Sys2Proof/Laws/Flags.lean ====
section
/-! SUPPORT. What the flag computations answer. -/

namespace Sys2Proof.Machine

/-- Packing and unpacking are lossless for the four flags (R24). -/
theorem unpack_pack_cases (z n h c : Bool) :
    unpackFlags (packFlags { z := z, n := n, h := h, c := c }) = { z := z, n := n, h := h, c := c } := by
  cases z <;> cases n <;> cases h <;> cases c <;> rfl

/-- The low nibble of a byte is its remainder modulo 16. -/
theorem nibble_eq_and (v : Byte) : nibble v = (v &&& 0x0F).toNat := by
  rw [nibble, BitVec.toNat_and, show (0x0F : Byte).toNat = 2 ^ 4 - 1 from rfl, Nat.and_two_pow_sub_one_eq_mod]

@[simp] theorem inc8_keeps_c (v : Byte) (f : Flags) : (inc8 v f).2.c = f.c := rfl

@[simp] theorem dec8_keeps_c (v : Byte) (f : Flags) : (dec8 v f).2.c = f.c := rfl

@[simp] theorem add8_n (a b : Byte) (cin : Bool) : (add8 a b cin).2.n = false := rfl

@[simp] theorem cmp8_n (a b : Byte) : (cmp8 a b).n = true := rfl

/-- The result of the adder is the wrapped sum (R101). -/
theorem add8_result (a b : Byte) (cin : Bool) :
    (add8 a b cin).1 = a + b + BitVec.ofNat 8 cin.toNat := by
  apply BitVec.eq_of_toNat_eq
  simp [add8]

/-- The result of an increment is the wrapped successor (R140). -/
theorem inc8_result (v : Byte) (f : Flags) : (inc8 v f).1 = v + 1 := by
  apply BitVec.eq_of_toNat_eq
  simp [inc8]

end Sys2Proof.Machine
end

