-- ==== Sys2Proof/Laws/HostMoves.lean ====
section
/-! SUPPORT. The laws of the host's moves: cutting a sequence of moves in two. -/

namespace Sys2Proof.Machine

@[simp] theorem afterMoves_nil (s : State) : afterMoves [] s = s := rfl

@[simp] theorem afterMoves_cons (move : HostMove) (rest : List HostMove) (s : State) :
    afterMoves (move :: rest) s = afterMoves rest (move.apply s).1 := rfl

/-- The state after two sequences is the state after the second from the state after the first. -/
theorem afterMoves_append (early late : List HostMove) :
    ∀ s : State, afterMoves (early ++ late) s = afterMoves late (afterMoves early s) := by
  induction early with
  | nil => intro s; rfl
  | cons move rest ih => intro s; exact ih _

/-- A sequence holds no step after a failure exactly when neither part does, the second from where the first ends. -/
theorem stopsAfterFailure_append (early late : List HostMove) :
    ∀ s : State, stopsAfterFailure (early ++ late) s =
      (stopsAfterFailure early s && stopsAfterFailure late (afterMoves early s)) := by
  induction early with
  | nil => intro s; rfl
  | cons move rest ih =>
    intro s
    rw [List.cons_append, stopsAfterFailure, stopsAfterFailure, ih, Bool.and_assoc, afterMoves]

/-- Only a step can break the rule, and only from a failed state. -/
theorem allowedIn_iff (move : HostMove) (s : State) :
    move.allowedIn s = true ↔ (move = .step → s.status = .running) := by
  cases move <;> simp [HostMove.allowedIn]

end Sys2Proof.Machine
end

