-- ==== Sys2Proof/Laws/PerInstr.lean ====
section
/-! SUPPORT. Statements about every instruction as syntax, one lemma per constructor. -/

namespace Sys2Proof.Laws.EncodedLength

/-- An instruction's encoding starts with an opcode byte whose length (R91) is the number of bytes it is encoded in; an
undecoded opcode is encoded in its own byte. -/
def Statement (i : Instr) : Prop :=
  match i.reading with
  | .term _ => (encode i).head?.bind (fun op => (decode op).length) = some (encode i).length
  | .illegal op => encode i = [op]
  | .unimplemented op => encode i = [op]

theorem nop : Statement .nop := rfl
theorem ldBCImm (nn : Word) : Statement (.ldBCImm nn) := rfl
theorem ldMemBCA : Statement .ldMemBCA := rfl
theorem incBC : Statement .incBC := rfl
theorem incB : Statement .incB := rfl
theorem decB : Statement .decB := rfl
theorem ldBImm (n : Byte) : Statement (.ldBImm n) := rfl
theorem ldAMemBC : Statement .ldAMemBC := rfl
theorem decBC : Statement .decBC := rfl
theorem incC : Statement .incC := rfl
theorem decC : Statement .decC := rfl
theorem ldCImm (n : Byte) : Statement (.ldCImm n) := rfl
theorem ldDEImm (nn : Word) : Statement (.ldDEImm nn) := rfl
theorem ldMemDEA : Statement .ldMemDEA := rfl
theorem incDE : Statement .incDE := rfl
theorem incD : Statement .incD := rfl
theorem decD : Statement .decD := rfl
theorem ldDImm (n : Byte) : Statement (.ldDImm n) := rfl
theorem rla : Statement .rla := rfl
theorem jrRel (e : Byte) : Statement (.jrRel e) := rfl
theorem ldAMemDE : Statement .ldAMemDE := rfl
theorem decDE : Statement .decDE := rfl
theorem incE : Statement .incE := rfl
theorem decE : Statement .decE := rfl
theorem ldEImm (n : Byte) : Statement (.ldEImm n) := rfl
theorem rra : Statement .rra := rfl
theorem jrNZRel (e : Byte) : Statement (.jrNZRel e) := rfl
theorem ldHLImm (nn : Word) : Statement (.ldHLImm nn) := rfl
theorem ldMemHLIncA : Statement .ldMemHLIncA := rfl
theorem incHL : Statement .incHL := rfl
theorem incH : Statement .incH := rfl
theorem decH : Statement .decH := rfl
theorem ldHImm (n : Byte) : Statement (.ldHImm n) := rfl
theorem jrZRel (e : Byte) : Statement (.jrZRel e) := rfl
theorem ldAMemHLInc : Statement .ldAMemHLInc := rfl
theorem decHL : Statement .decHL := rfl
theorem incL : Statement .incL := rfl
theorem decL : Statement .decL := rfl
theorem ldLImm (n : Byte) : Statement (.ldLImm n) := rfl
theorem jrNCRel (e : Byte) : Statement (.jrNCRel e) := rfl
theorem ldSPImm (nn : Word) : Statement (.ldSPImm nn) := rfl
theorem ldMemHLDecA : Statement .ldMemHLDecA := rfl
theorem incSP : Statement .incSP := rfl
theorem incMemHL : Statement .incMemHL := rfl
theorem decMemHL : Statement .decMemHL := rfl
theorem ldMemHLImm (n : Byte) : Statement (.ldMemHLImm n) := rfl
theorem jrCRel (e : Byte) : Statement (.jrCRel e) := rfl
theorem ldAMemHLDec : Statement .ldAMemHLDec := rfl
theorem decSP : Statement .decSP := rfl
theorem incA : Statement .incA := rfl
theorem decA : Statement .decA := rfl
theorem ldAImm (n : Byte) : Statement (.ldAImm n) := rfl
theorem ldBB : Statement .ldBB := rfl
theorem ldBC : Statement .ldBC := rfl
theorem ldBD : Statement .ldBD := rfl
theorem ldBE : Statement .ldBE := rfl
theorem ldBH : Statement .ldBH := rfl
theorem ldBL : Statement .ldBL := rfl
theorem ldBMemHL : Statement .ldBMemHL := rfl
theorem ldBA : Statement .ldBA := rfl
theorem ldCB : Statement .ldCB := rfl
theorem ldCC : Statement .ldCC := rfl
theorem ldCD : Statement .ldCD := rfl
theorem ldCE : Statement .ldCE := rfl
theorem ldCH : Statement .ldCH := rfl
theorem ldCL : Statement .ldCL := rfl
theorem ldCMemHL : Statement .ldCMemHL := rfl
theorem ldCA : Statement .ldCA := rfl
theorem ldDB : Statement .ldDB := rfl
theorem ldDC : Statement .ldDC := rfl
theorem ldDD : Statement .ldDD := rfl
theorem ldDE : Statement .ldDE := rfl
theorem ldDH : Statement .ldDH := rfl
theorem ldDL : Statement .ldDL := rfl
theorem ldDMemHL : Statement .ldDMemHL := rfl
theorem ldDA : Statement .ldDA := rfl
theorem ldEB : Statement .ldEB := rfl
theorem ldEC : Statement .ldEC := rfl
theorem ldED : Statement .ldED := rfl
theorem ldEE : Statement .ldEE := rfl
theorem ldEH : Statement .ldEH := rfl
theorem ldEL : Statement .ldEL := rfl
theorem ldEMemHL : Statement .ldEMemHL := rfl
theorem ldEA : Statement .ldEA := rfl
theorem ldHB : Statement .ldHB := rfl
theorem ldHC : Statement .ldHC := rfl
theorem ldHD : Statement .ldHD := rfl
theorem ldHE : Statement .ldHE := rfl
theorem ldHH : Statement .ldHH := rfl
theorem ldHL : Statement .ldHL := rfl
theorem ldHMemHL : Statement .ldHMemHL := rfl
theorem ldHA : Statement .ldHA := rfl
theorem ldLB : Statement .ldLB := rfl
theorem ldLC : Statement .ldLC := rfl
theorem ldLD : Statement .ldLD := rfl
theorem ldLE : Statement .ldLE := rfl
theorem ldLH : Statement .ldLH := rfl
theorem ldLL : Statement .ldLL := rfl
theorem ldLMemHL : Statement .ldLMemHL := rfl
theorem ldLA : Statement .ldLA := rfl
theorem ldMemHLB : Statement .ldMemHLB := rfl
theorem ldMemHLC : Statement .ldMemHLC := rfl
theorem ldMemHLD : Statement .ldMemHLD := rfl
theorem ldMemHLE : Statement .ldMemHLE := rfl
theorem ldMemHLH : Statement .ldMemHLH := rfl
theorem ldMemHLL : Statement .ldMemHLL := rfl
theorem ldMemHLA : Statement .ldMemHLA := rfl
theorem ldAB : Statement .ldAB := rfl
theorem ldAC : Statement .ldAC := rfl
theorem ldAD : Statement .ldAD := rfl
theorem ldAE : Statement .ldAE := rfl
theorem ldAH : Statement .ldAH := rfl
theorem ldAL : Statement .ldAL := rfl
theorem ldAMemHL : Statement .ldAMemHL := rfl
theorem ldAA : Statement .ldAA := rfl
theorem addAB : Statement .addAB := rfl
theorem addAC : Statement .addAC := rfl
theorem addAD : Statement .addAD := rfl
theorem addAE : Statement .addAE := rfl
theorem addAH : Statement .addAH := rfl
theorem addAL : Statement .addAL := rfl
theorem addAMemHL : Statement .addAMemHL := rfl
theorem addAA : Statement .addAA := rfl
theorem adcAB : Statement .adcAB := rfl
theorem adcAC : Statement .adcAC := rfl
theorem adcAD : Statement .adcAD := rfl
theorem adcAE : Statement .adcAE := rfl
theorem adcAH : Statement .adcAH := rfl
theorem adcAL : Statement .adcAL := rfl
theorem adcAMemHL : Statement .adcAMemHL := rfl
theorem adcAA : Statement .adcAA := rfl
theorem xorB : Statement .xorB := rfl
theorem xorC : Statement .xorC := rfl
theorem xorD : Statement .xorD := rfl
theorem xorE : Statement .xorE := rfl
theorem xorH : Statement .xorH := rfl
theorem xorL : Statement .xorL := rfl
theorem xorMemHL : Statement .xorMemHL := rfl
theorem xorA : Statement .xorA := rfl
theorem orB : Statement .orB := rfl
theorem orC : Statement .orC := rfl
theorem orD : Statement .orD := rfl
theorem orE : Statement .orE := rfl
theorem orH : Statement .orH := rfl
theorem orL : Statement .orL := rfl
theorem orMemHL : Statement .orMemHL := rfl
theorem orA : Statement .orA := rfl
theorem cpB : Statement .cpB := rfl
theorem cpC : Statement .cpC := rfl
theorem cpD : Statement .cpD := rfl
theorem cpE : Statement .cpE := rfl
theorem cpH : Statement .cpH := rfl
theorem cpL : Statement .cpL := rfl
theorem cpMemHL : Statement .cpMemHL := rfl
theorem cpA : Statement .cpA := rfl
theorem jpNZImm (nn : Word) : Statement (.jpNZImm nn) := rfl
theorem jpImm (nn : Word) : Statement (.jpImm nn) := rfl
theorem addAImm (n : Byte) : Statement (.addAImm n) := rfl
theorem jpZImm (nn : Word) : Statement (.jpZImm nn) := rfl
theorem adcAImm (n : Byte) : Statement (.adcAImm n) := rfl
theorem jpNCImm (nn : Word) : Statement (.jpNCImm nn) := rfl
theorem jpCImm (nn : Word) : Statement (.jpCImm nn) := rfl
theorem ldMemHighCA : Statement .ldMemHighCA := rfl
theorem jpHL : Statement .jpHL := rfl
theorem ldMemAbsA (nn : Word) : Statement (.ldMemAbsA nn) := rfl
theorem xorImm (n : Byte) : Statement (.xorImm n) := rfl
theorem ldAMemHighC : Statement .ldAMemHighC := rfl
theorem di : Statement .di := rfl
theorem orImm (n : Byte) : Statement (.orImm n) := rfl
theorem ldAMemAbs (nn : Word) : Statement (.ldAMemAbs nn) := rfl
theorem cpImm (n : Byte) : Statement (.cpImm n) := rfl
theorem illegal (op : Byte) : Statement (.illegal op) := rfl
theorem unimplemented (op : Byte) : Statement (.unimplemented op) := rfl

end Sys2Proof.Laws.EncodedLength
end

