-- ==== Sys2Proof/Machine/Assembler.lean ====
section
/-! DEFINITION. The assembler form of an instruction (R97), a total function over the closed variant set that no
meaning uses: `d8`, `d16`, `a16` and `e8` stand for the operand bytes, as in spec/opcode_table.json. -/

namespace Sys2Proof.Machine

/-- The name of a data register. -/
def reg8Name : Reg8 → String
  | .a => "A"
  | .b => "B"
  | .c => "C"
  | .d => "D"
  | .e => "E"
  | .h => "H"
  | .l => "L"

/-- The name of a 16-bit target. -/
def reg16Name : Reg16 → String
  | .bc => "BC"
  | .de => "DE"
  | .hl => "HL"
  | .sp => "SP"

/-- The name of a condition. -/
def condName : Cond → String
  | .nz => "NZ"
  | .z => "Z"
  | .nc => "NC"
  | .c => "C"

/-- The name of a memory operand. -/
def mem8Name : Mem8 → String
  | .bc => "(BC)"
  | .de => "(DE)"
  | .hl => "(HL)"
  | .hlInc => "(HL+)"
  | .hlDec => "(HL-)"
  | .highC => "(C)"
  | .abs _ => "(a16)"

/-- The name of a source. -/
def src8Name : Src8 → String
  | .reg r => reg8Name r
  | .imm _ => "d8"
  | .mem m => mem8Name m

/-- The name of a destination. -/
def dst8Name : Dst8 → String
  | .reg r => reg8Name r
  | .mem m => mem8Name m

/-- A condition and its comma, or nothing. -/
def condPart : Option Cond → String
  | none => ""
  | some cc => condName cc ++ ","

/-- `MNEMONIC dst,src` (R97). -/
def termName : Term → String
  | .nop => "NOP"
  | .add s => "ADD A," ++ src8Name s
  | .adc s => "ADC A," ++ src8Name s
  | .cp s => "CP " ++ src8Name s
  | .or s => "OR " ++ src8Name s
  | .xor s => "XOR " ++ src8Name s
  | .inc8 d => "INC " ++ dst8Name d
  | .dec8 d => "DEC " ++ dst8Name d
  | .inc16 p => "INC " ++ reg16Name p
  | .dec16 p => "DEC " ++ reg16Name p
  | .jp cc _ => "JP " ++ condPart cc ++ "a16"
  | .jpHL => "JP HL"
  | .jr cc _ => "JR " ++ condPart cc ++ "e8"
  | .ld8 d s => "LD " ++ dst8Name d ++ "," ++ src8Name s
  | .ld16 p _ => "LD " ++ reg16Name p ++ ",d16"
  | .rla => "RLA"
  | .rra => "RRA"
  | .di => "DI"

/-- The form of every row of the table; the two undecoded classes have their class name. -/
def instrName (i : Instr) : String :=
  match i.reading with
  | .term t => termName t
  | .illegal _ => "ILLEGAL"
  | .unimplemented _ => "UNIMPLEMENTED"

end Sys2Proof.Machine
end

