-- ==== Sys2Proof/Tests/Slice0.lean ====
section
/-! SUPPORT. The package's tests. Expected values come from the spec: the opcode table, the worked examples and vectors
of spec/95_test_vectors.md, and the tables of the rules. Every test is one step or one operation on a small state. The
last section holds, for each statement with hypotheses, a witness that meets them. -/

open Sys2Proof Sys2Proof.Machine

namespace Sys2Proof.Tests

/-! ### Helpers -/

/-- The conventions of 95_test_vectors.md: the reset state with the instruction bytes at `pc`. -/
def code (pc : Word) (bytes : List Byte) : State := { State.reset with pc := pc }.withFetchBytes bytes

/-- The same with some more bytes of memory, given as (address, byte). -/
def poke (s : State) (cells : List (Word × Byte)) : State :=
  cells.foldl (fun s c => { s with mem := Memory.place c.1 [c.2] s.mem }) s

/-- The F byte. -/
def fByte (s : State) : Byte := packFlags s.f

/-- What a vector checks: what `look` sees in the state after the step, its PC, and the result of the step. -/
def outcome {α : Type} (s : State) (look : State → α) : α × Word × Option StepResult :=
  (look s.afterStep, s.afterStep.pc, stepResult s)

/-! ### Well-formed terms (R94): an ill-formed term for each check, which the check refuses -/

/-- `Add(MemBC)`: the accumulator operations take (HL) as their only memory operand. -/
theorem smoke_alu_operand : (Term.add (.mem .bc)).wf = false ∧ (Term.cp (.mem (.abs 0x1234))).wf = false := by decide

/-- INC and DEC of a byte take (HL) as their only memory operand. -/
theorem smoke_step_operand : (Term.inc8 (.mem .hlInc)).wf = false ∧ (Term.dec8 (.mem .highC)).wf = false := by decide

/-- A load has at most one memory operand: (HL) with (HL) is no load. -/
theorem smoke_load_memory_to_memory :
    (Term.ld8 (.mem .bc) (.mem .de)).wf = false ∧ (Term.ld8 (.mem .hl) (.mem .hl)).wf = false := by decide

/-- The indirect loads are loads of A only, and only (HL) takes an immediate. -/
theorem smoke_load_only_a :
    (Term.ld8 (.reg .b) (.mem .bc)).wf = false ∧ (Term.ld8 (.mem .hlDec) (.reg .l)).wf = false ∧
      (Term.ld8 (.mem .de) (.imm 0x01)).wf = false := by decide

/-- An undecoded byte belongs to the class the spec gives it, and to no other. -/
theorem smoke_undecoded_class :
    (Instr.illegal 0x00).wf = false ∧ (Instr.illegal 0xCB).wf = false ∧ (Instr.unimplemented 0xD3).wf = false ∧
      (Instr.illegal 0xD3).wf = true ∧ (Instr.unimplemented 0xCB).wf = true := by decide

/-! ### Decoding: every row of the opcode table, its word written from the table's match and length, with the operand
bytes 0x34 0x12 -/

theorem test_decode_row_0 :
    ([[0x00], [0x01, 0x34, 0x12], [0x02], [0x03], [0x04], [0x05], [0x06, 0x34], [0x07], [0x08], [0x09], [0x0A],
     [0x0B], [0x0C], [0x0D], [0x0E, 0x34], [0x0F]] : List (List Byte)).map decodeBytes =
      [.ok (.nop, []), .ok (.ldBCImm 0x1234, []), .ok (.ldMemBCA, []), .ok (.incBC, []), .ok (.incB, []),
       .ok (.decB, []), .ok (.ldBImm 0x34, []), .ok (.unimplemented 0x07, []), .ok (.unimplemented 0x08, []),
       .ok (.unimplemented 0x09, []), .ok (.ldAMemBC, []), .ok (.decBC, []), .ok (.incC, []), .ok (.decC, []),
       .ok (.ldCImm 0x34, []), .ok (.unimplemented 0x0F, [])] := by
  decide

theorem test_decode_row_1 :
    ([[0x10], [0x11, 0x34, 0x12], [0x12], [0x13], [0x14], [0x15], [0x16, 0x34], [0x17], [0x18, 0x34], [0x19],
     [0x1A], [0x1B], [0x1C], [0x1D], [0x1E, 0x34], [0x1F]] : List (List Byte)).map decodeBytes =
      [.ok (.unimplemented 0x10, []), .ok (.ldDEImm 0x1234, []), .ok (.ldMemDEA, []), .ok (.incDE, []),
       .ok (.incD, []), .ok (.decD, []), .ok (.ldDImm 0x34, []), .ok (.rla, []), .ok (.jrRel 0x34, []),
       .ok (.unimplemented 0x19, []), .ok (.ldAMemDE, []), .ok (.decDE, []), .ok (.incE, []), .ok (.decE, []),
       .ok (.ldEImm 0x34, []), .ok (.rra, [])] := by
  decide

theorem test_decode_row_2 :
    ([[0x20, 0x34], [0x21, 0x34, 0x12], [0x22], [0x23], [0x24], [0x25], [0x26, 0x34], [0x27], [0x28, 0x34], [0x29],
     [0x2A], [0x2B], [0x2C], [0x2D], [0x2E, 0x34], [0x2F]] : List (List Byte)).map decodeBytes =
      [.ok (.jrNZRel 0x34, []), .ok (.ldHLImm 0x1234, []), .ok (.ldMemHLIncA, []), .ok (.incHL, []),
       .ok (.incH, []), .ok (.decH, []), .ok (.ldHImm 0x34, []), .ok (.unimplemented 0x27, []),
       .ok (.jrZRel 0x34, []), .ok (.unimplemented 0x29, []), .ok (.ldAMemHLInc, []), .ok (.decHL, []),
       .ok (.incL, []), .ok (.decL, []), .ok (.ldLImm 0x34, []), .ok (.unimplemented 0x2F, [])] := by
  decide

theorem test_decode_row_3 :
    ([[0x30, 0x34], [0x31, 0x34, 0x12], [0x32], [0x33], [0x34], [0x35], [0x36, 0x34], [0x37], [0x38, 0x34], [0x39],
     [0x3A], [0x3B], [0x3C], [0x3D], [0x3E, 0x34], [0x3F]] : List (List Byte)).map decodeBytes =
      [.ok (.jrNCRel 0x34, []), .ok (.ldSPImm 0x1234, []), .ok (.ldMemHLDecA, []), .ok (.incSP, []),
       .ok (.incMemHL, []), .ok (.decMemHL, []), .ok (.ldMemHLImm 0x34, []), .ok (.unimplemented 0x37, []),
       .ok (.jrCRel 0x34, []), .ok (.unimplemented 0x39, []), .ok (.ldAMemHLDec, []), .ok (.decSP, []),
       .ok (.incA, []), .ok (.decA, []), .ok (.ldAImm 0x34, []), .ok (.unimplemented 0x3F, [])] := by
  decide

theorem test_decode_row_4 :
    ([[0x40], [0x41], [0x42], [0x43], [0x44], [0x45], [0x46], [0x47], [0x48], [0x49], [0x4A], [0x4B], [0x4C],
     [0x4D], [0x4E], [0x4F]] : List (List Byte)).map decodeBytes =
      [.ok (.ldBB, []), .ok (.ldBC, []), .ok (.ldBD, []), .ok (.ldBE, []), .ok (.ldBH, []), .ok (.ldBL, []),
       .ok (.ldBMemHL, []), .ok (.ldBA, []), .ok (.ldCB, []), .ok (.ldCC, []), .ok (.ldCD, []), .ok (.ldCE, []),
       .ok (.ldCH, []), .ok (.ldCL, []), .ok (.ldCMemHL, []), .ok (.ldCA, [])] := by
  decide

theorem test_decode_row_5 :
    ([[0x50], [0x51], [0x52], [0x53], [0x54], [0x55], [0x56], [0x57], [0x58], [0x59], [0x5A], [0x5B], [0x5C],
     [0x5D], [0x5E], [0x5F]] : List (List Byte)).map decodeBytes =
      [.ok (.ldDB, []), .ok (.ldDC, []), .ok (.ldDD, []), .ok (.ldDE, []), .ok (.ldDH, []), .ok (.ldDL, []),
       .ok (.ldDMemHL, []), .ok (.ldDA, []), .ok (.ldEB, []), .ok (.ldEC, []), .ok (.ldED, []), .ok (.ldEE, []),
       .ok (.ldEH, []), .ok (.ldEL, []), .ok (.ldEMemHL, []), .ok (.ldEA, [])] := by
  decide

theorem test_decode_row_6 :
    ([[0x60], [0x61], [0x62], [0x63], [0x64], [0x65], [0x66], [0x67], [0x68], [0x69], [0x6A], [0x6B], [0x6C],
     [0x6D], [0x6E], [0x6F]] : List (List Byte)).map decodeBytes =
      [.ok (.ldHB, []), .ok (.ldHC, []), .ok (.ldHD, []), .ok (.ldHE, []), .ok (.ldHH, []), .ok (.ldHL, []),
       .ok (.ldHMemHL, []), .ok (.ldHA, []), .ok (.ldLB, []), .ok (.ldLC, []), .ok (.ldLD, []), .ok (.ldLE, []),
       .ok (.ldLH, []), .ok (.ldLL, []), .ok (.ldLMemHL, []), .ok (.ldLA, [])] := by
  decide

theorem test_decode_row_7 :
    ([[0x70], [0x71], [0x72], [0x73], [0x74], [0x75], [0x76], [0x77], [0x78], [0x79], [0x7A], [0x7B], [0x7C],
     [0x7D], [0x7E], [0x7F]] : List (List Byte)).map decodeBytes =
      [.ok (.ldMemHLB, []), .ok (.ldMemHLC, []), .ok (.ldMemHLD, []), .ok (.ldMemHLE, []), .ok (.ldMemHLH, []),
       .ok (.ldMemHLL, []), .ok (.unimplemented 0x76, []), .ok (.ldMemHLA, []), .ok (.ldAB, []), .ok (.ldAC, []),
       .ok (.ldAD, []), .ok (.ldAE, []), .ok (.ldAH, []), .ok (.ldAL, []), .ok (.ldAMemHL, []), .ok (.ldAA, [])] := by
  decide

theorem test_decode_row_8 :
    ([[0x80], [0x81], [0x82], [0x83], [0x84], [0x85], [0x86], [0x87], [0x88], [0x89], [0x8A], [0x8B], [0x8C],
     [0x8D], [0x8E], [0x8F]] : List (List Byte)).map decodeBytes =
      [.ok (.addAB, []), .ok (.addAC, []), .ok (.addAD, []), .ok (.addAE, []), .ok (.addAH, []), .ok (.addAL, []),
       .ok (.addAMemHL, []), .ok (.addAA, []), .ok (.adcAB, []), .ok (.adcAC, []), .ok (.adcAD, []),
       .ok (.adcAE, []), .ok (.adcAH, []), .ok (.adcAL, []), .ok (.adcAMemHL, []), .ok (.adcAA, [])] := by
  decide

theorem test_decode_row_9 :
    ([[0x90], [0x91], [0x92], [0x93], [0x94], [0x95], [0x96], [0x97], [0x98], [0x99], [0x9A], [0x9B], [0x9C],
     [0x9D], [0x9E], [0x9F]] : List (List Byte)).map decodeBytes =
      [.ok (.unimplemented 0x90, []), .ok (.unimplemented 0x91, []), .ok (.unimplemented 0x92, []),
       .ok (.unimplemented 0x93, []), .ok (.unimplemented 0x94, []), .ok (.unimplemented 0x95, []),
       .ok (.unimplemented 0x96, []), .ok (.unimplemented 0x97, []), .ok (.unimplemented 0x98, []),
       .ok (.unimplemented 0x99, []), .ok (.unimplemented 0x9A, []), .ok (.unimplemented 0x9B, []),
       .ok (.unimplemented 0x9C, []), .ok (.unimplemented 0x9D, []), .ok (.unimplemented 0x9E, []),
       .ok (.unimplemented 0x9F, [])] := by
  decide

theorem test_decode_row_a :
    ([[0xA0], [0xA1], [0xA2], [0xA3], [0xA4], [0xA5], [0xA6], [0xA7], [0xA8], [0xA9], [0xAA], [0xAB], [0xAC],
     [0xAD], [0xAE], [0xAF]] : List (List Byte)).map decodeBytes =
      [.ok (.unimplemented 0xA0, []), .ok (.unimplemented 0xA1, []), .ok (.unimplemented 0xA2, []),
       .ok (.unimplemented 0xA3, []), .ok (.unimplemented 0xA4, []), .ok (.unimplemented 0xA5, []),
       .ok (.unimplemented 0xA6, []), .ok (.unimplemented 0xA7, []), .ok (.xorB, []), .ok (.xorC, []),
       .ok (.xorD, []), .ok (.xorE, []), .ok (.xorH, []), .ok (.xorL, []), .ok (.xorMemHL, []), .ok (.xorA, [])] := by
  decide

theorem test_decode_row_b :
    ([[0xB0], [0xB1], [0xB2], [0xB3], [0xB4], [0xB5], [0xB6], [0xB7], [0xB8], [0xB9], [0xBA], [0xBB], [0xBC],
     [0xBD], [0xBE], [0xBF]] : List (List Byte)).map decodeBytes =
      [.ok (.orB, []), .ok (.orC, []), .ok (.orD, []), .ok (.orE, []), .ok (.orH, []), .ok (.orL, []),
       .ok (.orMemHL, []), .ok (.orA, []), .ok (.cpB, []), .ok (.cpC, []), .ok (.cpD, []), .ok (.cpE, []),
       .ok (.cpH, []), .ok (.cpL, []), .ok (.cpMemHL, []), .ok (.cpA, [])] := by
  decide

theorem test_decode_row_c :
    ([[0xC0], [0xC1], [0xC2, 0x34, 0x12], [0xC3, 0x34, 0x12], [0xC4], [0xC5], [0xC6, 0x34], [0xC7], [0xC8], [0xC9],
     [0xCA, 0x34, 0x12], [0xCB], [0xCC], [0xCD], [0xCE, 0x34], [0xCF]] : List (List Byte)).map decodeBytes =
      [.ok (.unimplemented 0xC0, []), .ok (.unimplemented 0xC1, []), .ok (.jpNZImm 0x1234, []),
       .ok (.jpImm 0x1234, []), .ok (.unimplemented 0xC4, []), .ok (.unimplemented 0xC5, []),
       .ok (.addAImm 0x34, []), .ok (.unimplemented 0xC7, []), .ok (.unimplemented 0xC8, []),
       .ok (.unimplemented 0xC9, []), .ok (.jpZImm 0x1234, []), .ok (.unimplemented 0xCB, []),
       .ok (.unimplemented 0xCC, []), .ok (.unimplemented 0xCD, []), .ok (.adcAImm 0x34, []),
       .ok (.unimplemented 0xCF, [])] := by
  decide

theorem test_decode_row_d :
    ([[0xD0], [0xD1], [0xD2, 0x34, 0x12], [0xD3], [0xD4], [0xD5], [0xD6], [0xD7], [0xD8], [0xD9],
     [0xDA, 0x34, 0x12], [0xDB], [0xDC], [0xDD], [0xDE], [0xDF]] : List (List Byte)).map decodeBytes =
      [.ok (.unimplemented 0xD0, []), .ok (.unimplemented 0xD1, []), .ok (.jpNCImm 0x1234, []),
       .ok (.illegal 0xD3, []), .ok (.unimplemented 0xD4, []), .ok (.unimplemented 0xD5, []),
       .ok (.unimplemented 0xD6, []), .ok (.unimplemented 0xD7, []), .ok (.unimplemented 0xD8, []),
       .ok (.unimplemented 0xD9, []), .ok (.jpCImm 0x1234, []), .ok (.illegal 0xDB, []),
       .ok (.unimplemented 0xDC, []), .ok (.illegal 0xDD, []), .ok (.unimplemented 0xDE, []),
       .ok (.unimplemented 0xDF, [])] := by
  decide

theorem test_decode_row_e :
    ([[0xE0], [0xE1], [0xE2], [0xE3], [0xE4], [0xE5], [0xE6], [0xE7], [0xE8], [0xE9], [0xEA, 0x34, 0x12], [0xEB],
     [0xEC], [0xED], [0xEE, 0x34], [0xEF]] : List (List Byte)).map decodeBytes =
      [.ok (.unimplemented 0xE0, []), .ok (.unimplemented 0xE1, []), .ok (.ldMemHighCA, []),
       .ok (.illegal 0xE3, []), .ok (.illegal 0xE4, []), .ok (.unimplemented 0xE5, []),
       .ok (.unimplemented 0xE6, []), .ok (.unimplemented 0xE7, []), .ok (.unimplemented 0xE8, []),
       .ok (.jpHL, []), .ok (.ldMemAbsA 0x1234, []), .ok (.illegal 0xEB, []), .ok (.illegal 0xEC, []),
       .ok (.illegal 0xED, []), .ok (.xorImm 0x34, []), .ok (.unimplemented 0xEF, [])] := by
  decide

theorem test_decode_row_f :
    ([[0xF0], [0xF1], [0xF2], [0xF3], [0xF4], [0xF5], [0xF6, 0x34], [0xF7], [0xF8], [0xF9], [0xFA, 0x34, 0x12],
     [0xFB], [0xFC], [0xFD], [0xFE, 0x34], [0xFF]] : List (List Byte)).map decodeBytes =
      [.ok (.unimplemented 0xF0, []), .ok (.unimplemented 0xF1, []), .ok (.ldAMemHighC, []), .ok (.di, []),
       .ok (.illegal 0xF4, []), .ok (.unimplemented 0xF5, []), .ok (.orImm 0x34, []),
       .ok (.unimplemented 0xF7, []), .ok (.unimplemented 0xF8, []), .ok (.unimplemented 0xF9, []),
       .ok (.ldAMemAbs 0x1234, []), .ok (.unimplemented 0xFB, []), .ok (.illegal 0xFC, []),
       .ok (.illegal 0xFD, []), .ok (.cpImm 0x34, []), .ok (.unimplemented 0xFF, [])] := by
  decide

/-- Operand bytes that are missing are reported, not guessed. -/
theorem test_decode_short :
    decodeBytes [] = .error .noOpcode ∧ decodeBytes [0x3E] = .error .missingOperand ∧
      decodeBytes [0xC3, 0x50] = .error .missingOperand := by decide

/-- The table's numbering: the first byte in bits 7 to 0, absent operand bytes 0. -/
theorem test_table_words :
    decodeTableWord 8 0xC3 = some (.jpImm 0x0000) ∧ decodeTableWord 24 0x123401 = some (.ldBCImm 0x1234) ∧
      decodeTableWord 16 0xFB30 = some (.jrNCRel 0xFB) ∧ decodeTableWord 8 0xED = some (.illegal 0xED) := by decide

/-- The field encodings of R81 to R84 (the words written bit by bit). -/
theorem test_encode_fields :
    encode .ldHE = [0b01100011] ∧ encode (.jrCRel 0x7F) = [0b00111000, 0x7F] ∧
      encode (.jpNCImm 0x1234) = [0b11010010, 0x34, 0x12] ∧ encode .decSP = [0b00111011] ∧
      encode .xorMemHL = [0b10101110] := by decide

/-- The assembler forms (R97), as the opcode table writes them. -/
theorem test_names :
    instrName (.ldBCImm 0x1234) = "LD BC,d16" ∧ instrName .ldMemHLIncA = "LD (HL+),A" ∧
      instrName (.jrNZRel 0) = "JR NZ,e8" ∧ instrName .adcAMemHL = "ADC A,(HL)" ∧ instrName .cpB = "CP B" := by decide

/-! ### Worked examples E1 to E10 and V-BUS -/

/-- E1: the Echo shares WRAM's bytes, both ways, at both ends. -/
theorem test_echo :
    (State.reset.writeByte 0xC000 0x12).readByte 0xE000 = 0x12 ∧
    (State.reset.writeByte 0xDDFF 0x34).readByte 0xFDFF = 0x34 ∧
    (State.reset.writeByte 0xE123 0x56).readByte 0xC123 = 0x56 ∧
    (State.reset.writeByte 0xFDFF 0x78).readByte 0xDDFF = 0x78 := by decide

/-- E2: Unusable and IO read 0x00 whatever was written. -/
theorem test_reserved_ranges :
    (State.reset.writeByte 0xFEA0 0xFF).readByte 0xFEA0 = 0x00 ∧
    (State.reset.writeByte 0xFEFF 0x01).readByte 0xFEFF = 0x00 ∧
    (State.reset.writeByte 0xFF00 0xFF).readByte 0xFF00 = 0x00 ∧
    (State.reset.writeByte 0xFF7F 0x80).readByte 0xFF7F = 0x00 := by decide

/-- E3: pairs and their bytes. -/
theorem test_pairs :
    (let s := State.reset.setPair .bc 0x1234; (s.pair .bc, s.b, s.c, s.d, s.e) = (0x1234, 0x12, 0x34, 0x00, 0xD8)) ∧
    (let s := State.reset.setPair .de 0xABCD; (s.pair .de, s.d, s.e, s.h, s.l) = (0xABCD, 0xAB, 0xCD, 0x01, 0x4D)) ∧
    (let s := State.reset.setPair .hl 0x00FF; (s.pair .hl, s.h, s.l, s.b, s.c) = (0x00FF, 0x00, 0xFF, 0x00, 0x13)) := by
  decide

/-- E4: one bit at a time, and the example 0xBF. -/
theorem test_flag_packing :
    packFlags { z := true, n := false, h := false, c := false } = 0x80 ∧
    packFlags { z := false, n := true, h := false, c := false } = 0x40 ∧
    packFlags { z := false, n := false, h := true, c := false } = 0x20 ∧
    packFlags { z := false, n := false, h := false, c := true } = 0x10 ∧
    unpackFlags 0xBF = { z := true, n := false, h := true, c := true } ∧ packFlags (unpackFlags 0xBF) = 0xB0 := by
  decide

/-- E7: from reset with `load([C3 50 00])` moved to the entry point, one step. -/
theorem test_absolute_jump_example :
    outcome (code 0x0100 [0xC3, 0x50, 0x00]) (fun t => (t.a, t.sp)) = ((0x01, 0xFFFE), 0x0050, some (.ok 16)) := by
  decide

/-- E9. -/
theorem test_reset_values :
    (State.reset.pair .bc, State.reset.pair .de, State.reset.pair .hl, fByte State.reset) =
      (0x0013, 0x00D8, 0x014D, 0xB0) := by decide

/-- E10: three bytes; the rest stays 0x00, and 0x8000 is not ROM. -/
theorem test_load :
    let s := State.reset.load [0xC3, 0x50, 0x01]
    s.readByte 0x0000 = 0xC3 ∧ s.readByte 0x0001 = 0x50 ∧ s.readByte 0x0002 = 0x01 ∧ s.readByte 0x0003 = 0x00 := by
  decide

/-- E10: the remainder is 0x00 also where the host had written ROM. -/
theorem test_load_fills_with_zero :
    let s := (poke State.reset [(0x0005, 0x77), (0x8000, 0x66)]).load [0xC3]
    s.readByte 0x0005 = 0x00 ∧ s.readByte 0x8000 = 0x66 := by decide

/-- E10: the copy stops at the end of ROM. -/
theorem test_load_truncates :
    let m := Memory.loadFrom 0x7FFF [0x11, 0x11] []
    Memory.readByte m 0x7FFF = 0x11 ∧ Memory.readByte m 0x8000 = 0x00 := by decide

/-- V-BUS: little-endian words, across the wrap, across the Echo boundary and into Unusable. -/
theorem test_read_word :
    (poke State.reset [(0xC000, 0x34), (0xC001, 0x12)]).readWord 0xC000 = 0x1234 ∧
    (poke State.reset [(0xFFFF, 0xCD), (0x0000, 0xAB)]).readWord 0xFFFF = 0xABCD ∧
    (poke State.reset [(0xDFFF, 0x01), (0xC000, 0x02)]).readWord 0xDFFF = 0x0201 ∧
    (poke State.reset [(0xFE9F, 0x77)]).readWord 0xFE9F = 0x0077 := by decide

/-- V-BUS: the two values of ROM_WRITES. -/
theorem test_rom_write_policies :
    Memory.readByte (Memory.writeByte .store [] 0x2000 0x99) 0x2000 = 0x99 ∧
    Memory.readByte (Memory.writeByte .discard [] 0x2000 0x99) 0x2000 = 0x00 ∧
    Memory.readByte (Memory.writeByte .discard [] 0x8000 0x99) 0x8000 = 0x99 := by decide

/-- V-BUS: one write in each RAM. -/
theorem test_ram_writes :
    (State.reset.writeByte 0x9FFF 0x01).readByte 0x9FFF = 0x01 ∧
    (State.reset.writeByte 0xA000 0x02).readByte 0xA000 = 0x02 ∧
    (State.reset.writeByte 0xFE00 0x03).readByte 0xFE00 = 0x03 ∧
    (State.reset.writeByte 0xFF80 0x04).readByte 0xFF80 = 0x04 ∧
    (State.reset.writeByte 0xFFFF 0x05).readByte 0xFFFF = 0x05 := by decide

/-- V-BUS: which addresses have a mutable cell. -/
theorem test_mutable_bytes :
    getMutableByte 0xFEA0 = none ∧ getMutableByte 0xFF7F = none ∧ getMutableByte 0xFF80 = some 0xFF80 ∧
      getMutableByte 0x0000 = some 0 ∧ getMutableByte 0xE000 = some 0xC000 := by decide

/-- R51 at the ends of its ranges. -/
theorem test_region_bounds :
    [region 0x7FFF, region 0x8000, region 0x9FFF, region 0xA000, region 0xBFFF, region 0xC000] =
      [.rom 0x7FFF, .vram 0, .vram 0x1FFF, .eram 0, .eram 0x1FFF, .wram 0] ∧
    [region 0xDFFF, region 0xE000, region 0xFDFF, region 0xFE00, region 0xFE9F, region 0xFEA0] =
      [.wram 0x1FFF, .wram 0, .wram 0x1DFF, .oam 0, .oam 0x9F, .unusable] ∧
    [region 0xFEFF, region 0xFF00, region 0xFF7F, region 0xFF80, region 0xFFFF] =
      [.unusable, .io, .io, .hram 0, .hram 0x7F] := by decide

/-- Writing 0x00 removes the entry, so equal memories are equal lists. -/
theorem test_canonical_memory :
    Memory.store (Memory.store (Memory.store [] 5 1) 3 2) 5 0 = [(3, 2)] ∧ Memory.wf [(3, 2), (5, 1)] = true ∧
      Memory.wf [(5, 1), (3, 2)] = false ∧ Memory.wf [(3, 0)] = false ∧ Memory.wf [(0xE000, 1)] = false := by decide

/-- V-JP: the operand of a JP at 0xFFFF is read from 0x0000 and 0x0001. -/
theorem test_operand_wraps :
    outcome (poke (code 0xFFFF [0xC3]) [(0x0000, 0x00), (0x0001, 0x00)]) (fun t => t.l) =
      (0x4D, 0x0000, some (.ok 16)) := by decide

/-! ### The vectors of 95_test_vectors.md -/

theorem test_nop :
    outcome (code 0xC000 [0x00]) (fun t => (fByte t, t.a)) =
      ((0xB0, 0x01), 0xC001, some (.ok 4)) := by decide

theorem test_nop_top_of_memory :
    outcome (code 0xFFFF [0x00]) (fun t => fByte t) =
      (0xB0, 0x0000, some (.ok 4)) := by decide

theorem test_add_b_half :
    outcome { code 0xC000 [0x80] with a := 0x0F, b := 0x01, f := unpackFlags 0x00 } (fun t => (t.a, fByte t)) =
      ((0x10, 0x20), 0xC001, some (.ok 4)) := by decide

theorem test_add_b_carry_without_half :
    outcome { code 0xC000 [0x80] with a := 0xF0, b := 0x20, f := unpackFlags 0x00 } (fun t => (t.a, fByte t)) =
      ((0x10, 0x10), 0xC001, some (.ok 4)) := by decide

theorem test_add_a :
    outcome { code 0xC000 [0x87] with a := 0x88, f := unpackFlags 0x00 } (fun t => (t.a, fByte t)) =
      ((0x10, 0x30), 0xC001, some (.ok 4)) := by decide

theorem test_add_hl :
    outcome (poke { code 0xC000 [0x86] with a := 0x3A, h := 0xC1, l := 0x00, f := unpackFlags 0xB0 } [(0xC100, 0xC6)]) (fun t => (t.a, fByte t)) =
      ((0x00, 0xB0), 0xC001, some (.ok 8)) := by decide

theorem test_add_hl_unusable :
    outcome { code 0xC000 [0x86] with a := 0x05, h := 0xFE, l := 0xA0, f := unpackFlags 0x00 } (fun t => (t.a, fByte t)) =
      ((0x05, 0x00), 0xC001, some (.ok 8)) := by decide

theorem test_add_imm :
    outcome { code 0xC000 [0xC6, 0x80] with a := 0x80, f := unpackFlags 0x00 } (fun t => (t.a, fByte t)) =
      ((0x00, 0x90), 0xC002, some (.ok 8)) := by decide

theorem test_add_imm_wraps :
    outcome { code 0xFFFE [0xC6, 0x01] with a := 0x0E, f := unpackFlags 0x00 } (fun t => (t.a, fByte t)) =
      ((0x0F, 0x00), 0x0000, some (.ok 8)) := by decide

theorem test_adc_c_carry_in :
    outcome { code 0xC000 [0x89] with a := 0x0E, c := 0x01, f := unpackFlags 0x10 } (fun t => (t.a, fByte t)) =
      ((0x10, 0x20), 0xC001, some (.ok 4)) := by decide

theorem test_adc_c_carry_out :
    outcome { code 0xC000 [0x89] with a := 0xFF, c := 0x00, f := unpackFlags 0x10 } (fun t => (t.a, fByte t)) =
      ((0x00, 0xB0), 0xC001, some (.ok 4)) := by decide

theorem test_adc_a :
    outcome { code 0xC000 [0x8F] with a := 0x80, f := unpackFlags 0x10 } (fun t => (t.a, fByte t)) =
      ((0x01, 0x10), 0xC001, some (.ok 4)) := by decide

theorem test_adc_hl :
    outcome (poke { code 0xC000 [0x8E] with a := 0x0F, h := 0xC1, l := 0x00, f := unpackFlags 0x10 } [(0xC100, 0x00)]) (fun t => (t.a, fByte t)) =
      ((0x10, 0x20), 0xC001, some (.ok 8)) := by decide

theorem test_adc_imm :
    outcome { code 0xC000 [0xCE, 0xFF] with a := 0x00, f := unpackFlags 0x10 } (fun t => (t.a, fByte t)) =
      ((0x00, 0xB0), 0xC002, some (.ok 8)) := by decide

theorem test_cp_b_borrow :
    outcome { code 0xC000 [0xB8] with a := 0x10, b := 0x20, f := unpackFlags 0x00 } (fun t => (t.a, fByte t)) =
      ((0x10, 0x50), 0xC001, some (.ok 4)) := by decide

theorem test_cp_b_half_borrow :
    outcome { code 0xC000 [0xB8] with a := 0x10, b := 0x01, f := unpackFlags 0x00 } (fun t => (t.a, fByte t)) =
      ((0x10, 0x60), 0xC001, some (.ok 4)) := by decide

theorem test_cp_a :
    outcome { code 0xC000 [0xBF] with a := 0x77, f := unpackFlags 0x00 } (fun t => (t.a, fByte t)) =
      ((0x77, 0xC0), 0xC001, some (.ok 4)) := by decide

theorem test_cp_hl :
    outcome (poke { code 0xC000 [0xBE] with a := 0x3C, h := 0xC1, l := 0x00, f := unpackFlags 0xB0 } [(0xC100, 0x40)]) (fun t => (t.a, fByte t)) =
      ((0x3C, 0x50), 0xC001, some (.ok 8)) := by decide

theorem test_cp_imm :
    outcome { code 0xC000 [0xFE, 0x2F] with a := 0x3C, f := unpackFlags 0xB0 } (fun t => (t.a, fByte t)) =
      ((0x3C, 0x60), 0xC002, some (.ok 8)) := by decide

theorem test_or_b :
    outcome { code 0xC000 [0xB0] with a := 0x0F, b := 0xF0, f := unpackFlags 0xF0 } (fun t => (t.a, fByte t)) =
      ((0xFF, 0x00), 0xC001, some (.ok 4)) := by decide

theorem test_or_a :
    outcome { code 0xC000 [0xB7] with a := 0x00, f := unpackFlags 0x30 } (fun t => (t.a, fByte t)) =
      ((0x00, 0x80), 0xC001, some (.ok 4)) := by decide

theorem test_or_hl_io :
    outcome { code 0xC000 [0xB6] with a := 0x01, h := 0xFF, l := 0x10, f := unpackFlags 0xB0 } (fun t => (t.a, fByte t)) =
      ((0x01, 0x00), 0xC001, some (.ok 8)) := by decide

theorem test_or_imm :
    outcome { code 0xC000 [0xF6, 0x80] with a := 0x01, f := unpackFlags 0x00 } (fun t => (t.a, fByte t)) =
      ((0x81, 0x00), 0xC002, some (.ok 8)) := by decide

theorem test_xor_a :
    outcome { code 0xC000 [0xAF] with a := 0x5A, f := unpackFlags 0x70 } (fun t => (t.a, fByte t)) =
      ((0x00, 0x80), 0xC001, some (.ok 4)) := by decide

theorem test_xor_b :
    outcome { code 0xC000 [0xA8] with a := 0xF0, b := 0xFF, f := unpackFlags 0xB0 } (fun t => (t.a, fByte t)) =
      ((0x0F, 0x00), 0xC001, some (.ok 4)) := by decide

theorem test_xor_hl :
    outcome (poke { code 0xC000 [0xAE] with a := 0xAA, h := 0xC1, l := 0x00, f := unpackFlags 0xB0 } [(0xC100, 0xAA)]) (fun t => (t.a, fByte t)) =
      ((0x00, 0x80), 0xC001, some (.ok 8)) := by decide

theorem test_xor_imm :
    outcome { code 0xC000 [0xEE, 0x01] with a := 0xFF, f := unpackFlags 0x00 } (fun t => (t.a, fByte t)) =
      ((0xFE, 0x00), 0xC002, some (.ok 8)) := by decide

theorem test_inc_a_wraps :
    outcome { code 0xC000 [0x3C] with a := 0xFF, f := unpackFlags 0x00 } (fun t => (t.a, fByte t)) =
      ((0x00, 0xA0), 0xC001, some (.ok 4)) := by decide

theorem test_inc_a_no_half :
    outcome { code 0xC000 [0x3C] with a := 0x0E, f := unpackFlags 0x00 } (fun t => (t.a, fByte t)) =
      ((0x0F, 0x00), 0xC001, some (.ok 4)) := by decide

theorem test_inc_b_keeps_carry :
    outcome { code 0xC000 [0x04] with b := 0x0F, f := unpackFlags 0x10 } (fun t => (t.b, fByte t)) =
      ((0x10, 0x30), 0xC001, some (.ok 4)) := by decide

theorem test_inc_l :
    outcome { code 0xC000 [0x2C] with l := 0x7F, f := unpackFlags 0xE0 } (fun t => (t.l, fByte t)) =
      ((0x80, 0x20), 0xC001, some (.ok 4)) := by decide

theorem test_dec_c_zero :
    outcome { code 0xC000 [0x0D] with c := 0x01, f := unpackFlags 0x00 } (fun t => (t.c, fByte t)) =
      ((0x00, 0xC0), 0xC001, some (.ok 4)) := by decide

theorem test_dec_c_wraps :
    outcome { code 0xC000 [0x0D] with c := 0x00, f := unpackFlags 0x10 } (fun t => (t.c, fByte t)) =
      ((0xFF, 0x70), 0xC001, some (.ok 4)) := by decide

theorem test_dec_d :
    outcome { code 0xC000 [0x15] with d := 0x10, f := unpackFlags 0x80 } (fun t => (t.d, fByte t)) =
      ((0x0F, 0x60), 0xC001, some (.ok 4)) := by decide

theorem test_dec_h :
    outcome { code 0xC000 [0x25] with h := 0xC1, f := unpackFlags 0x00 } (fun t => (t.h, fByte t)) =
      ((0xC0, 0x40), 0xC001, some (.ok 4)) := by decide

theorem test_inc_hl_echo :
    outcome (poke { code 0xC000 [0x34] with h := 0xE1, l := 0x00, f := unpackFlags 0x10 } [(0xC100, 0x0F)]) (fun t => (t.readByte 0xC100, fByte t)) =
      ((0x10, 0x30), 0xC001, some (.ok 12)) := by decide

theorem test_inc_hl_unusable :
    outcome { code 0xC000 [0x34] with h := 0xFE, l := 0xA0, f := unpackFlags 0x00 } (fun t => fByte t) =
      (0x00, 0xC000, some (.failure (.invalidMutableAccess 0xFEA0 0xC000))) := by decide

theorem test_dec_hl_oam_end :
    outcome (poke { code 0xC000 [0x35] with h := 0xFE, l := 0x9F, f := unpackFlags 0xB0 } [(0xFE9F, 0x01)]) (fun t => (t.readByte 0xFE9F, fByte t)) =
      ((0x00, 0xD0), 0xC001, some (.ok 12)) := by decide

theorem test_dec_hl_io :
    outcome { code 0xC000 [0x35] with h := 0xFF, l := 0x7F, f := unpackFlags 0x00 } (fun t => fByte t) =
      (0x00, 0xC000, some (.failure (.invalidMutableAccess 0xFF7F 0xC000))) := by decide

theorem test_inc_bc :
    outcome { code 0xC000 [0x03] with b := 0x00, c := 0xFF, f := unpackFlags 0x00 } (fun t => (t.pair .bc, fByte t)) =
      ((0x0100, 0x00), 0xC001, some (.ok 8)) := by decide

theorem test_inc_de_wraps :
    outcome { code 0xC000 [0x13] with d := 0xFF, e := 0xFF, f := unpackFlags 0x00 } (fun t => (t.pair .de, fByte t)) =
      ((0x0000, 0x00), 0xC001, some (.ok 8)) := by decide

theorem test_inc_hl_pair :
    outcome { code 0xC000 [0x23] with h := 0xC1, l := 0xFF, f := unpackFlags 0xB0 } (fun t => (t.pair .hl, fByte t)) =
      ((0xC200, 0xB0), 0xC001, some (.ok 8)) := by decide

theorem test_inc_sp :
    outcome { code 0xC000 [0x33] with sp := 0xFFFE } (fun t => (t.sp, fByte t)) =
      ((0xFFFF, 0xB0), 0xC001, some (.ok 8)) := by decide

theorem test_dec_bc_wraps :
    outcome { code 0xC000 [0x0B] with b := 0x00, c := 0x00, f := unpackFlags 0xB0 } (fun t => (t.pair .bc, fByte t)) =
      ((0xFFFF, 0xB0), 0xC001, some (.ok 8)) := by decide

theorem test_dec_de :
    outcome { code 0xC000 [0x1B] with d := 0x01, e := 0x00, f := unpackFlags 0xB0 } (fun t => (t.pair .de, fByte t)) =
      ((0x00FF, 0xB0), 0xC001, some (.ok 8)) := by decide

theorem test_dec_sp_wraps :
    outcome { code 0xC000 [0x3B] with sp := 0x0000 } (fun t => t.sp) =
      (0xFFFF, 0xC001, some (.ok 8)) := by decide

theorem test_jp_nz_taken :
    outcome { code 0xC000 [0xC2, 0x34, 0x12] with f := unpackFlags 0x00 } (fun t => fByte t) =
      (0x00, 0x1234, some (.ok 16)) := by decide

theorem test_jp_nz_not_taken :
    outcome { code 0xC000 [0xC2, 0x34, 0x12] with f := unpackFlags 0x80 } (fun t => fByte t) =
      (0x80, 0xC003, some (.ok 12)) := by decide

theorem test_jp_z_taken :
    outcome { code 0xC000 [0xCA, 0x34, 0x12] with f := unpackFlags 0x80 } (fun t => fByte t) =
      (0x80, 0x1234, some (.ok 16)) := by decide

theorem test_jp_nc_not_taken :
    outcome { code 0xC000 [0xD2, 0x34, 0x12] with f := unpackFlags 0x10 } (fun t => fByte t) =
      (0x10, 0xC003, some (.ok 12)) := by decide

theorem test_jp_c_taken :
    outcome { code 0xC000 [0xDA, 0x00, 0x80] with f := unpackFlags 0x10 } (fun t => fByte t) =
      (0x10, 0x8000, some (.ok 16)) := by decide

theorem test_jp_hl :
    outcome { code 0xC000 [0xE9] with h := 0xFF, l := 0x80 } (fun t => t.pair .hl) =
      (0xFF80, 0xFF80, some (.ok 4)) := by decide

theorem test_jr_back :
    outcome (code 0xC000 [0x18, 0x80]) (fun t => fByte t) =
      (0xB0, 0xBF82, some (.ok 12)) := by decide

theorem test_jr_wraps_down :
    outcome (code 0x0000 [0x18, 0xF0]) (fun t => fByte t) =
      (0xB0, 0xFFF2, some (.ok 12)) := by decide

theorem test_jr_nz_taken :
    outcome { code 0xC000 [0x20, 0xFB] with f := unpackFlags 0x00 } (fun t => fByte t) =
      (0x00, 0xBFFD, some (.ok 12)) := by decide

theorem test_jr_nz_not_taken :
    outcome { code 0xC000 [0x20, 0xFB] with f := unpackFlags 0x80 } (fun t => fByte t) =
      (0x80, 0xC002, some (.ok 8)) := by decide

theorem test_jr_z_taken :
    outcome { code 0xC000 [0x28, 0x10] with f := unpackFlags 0x80 } (fun t => fByte t) =
      (0x80, 0xC012, some (.ok 12)) := by decide

theorem test_jr_nc_taken :
    outcome { code 0xC000 [0x30, 0x02] with f := unpackFlags 0x00 } (fun t => fByte t) =
      (0x00, 0xC004, some (.ok 12)) := by decide

theorem test_jr_c_not_taken :
    outcome { code 0xC000 [0x38, 0x02] with f := unpackFlags 0x00 } (fun t => fByte t) =
      (0x00, 0xC002, some (.ok 8)) := by decide

theorem test_ld_b_c :
    outcome (code 0xC000 [0x41]) (fun t => (t.b, t.c)) =
      ((0x13, 0x13), 0xC001, some (.ok 4)) := by decide

theorem test_ld_a_e :
    outcome (code 0xC000 [0x7B]) (fun t => (t.a, t.e)) =
      ((0xD8, 0xD8), 0xC001, some (.ok 4)) := by decide

theorem test_ld_l_h :
    outcome (code 0xC000 [0x6C]) (fun t => (t.l, t.h)) =
      ((0x01, 0x01), 0xC001, some (.ok 4)) := by decide

theorem test_ld_a_mem_hl :
    outcome (poke { code 0xC000 [0x7E] with h := 0xC1, l := 0x00 } [(0xC100, 0x99)]) (fun t => t.a) =
      (0x99, 0xC001, some (.ok 8)) := by decide

theorem test_ld_h_mem_hl :
    outcome (poke { code 0xC000 [0x66] with h := 0xC1, l := 0x00 } [(0xC100, 0x99)]) (fun t => t.pair .hl) =
      (0x9900, 0xC001, some (.ok 8)) := by decide

theorem test_ld_l_mem_hl_io :
    outcome { code 0xC000 [0x6E] with h := 0xFF, l := 0x44 } (fun t => t.l) =
      (0x00, 0xC001, some (.ok 8)) := by decide

theorem test_ld_mem_hl_h :
    outcome { code 0xC000 [0x74] with h := 0xC1, l := 0x00 } (fun t => (t.readByte 0xC100, t.readByte 0xE100)) =
      ((0xC1, 0xC1), 0xC001, some (.ok 8)) := by decide

theorem test_ld_mem_hl_a_echo :
    outcome { code 0xC000 [0x77] with a := 0x77, h := 0xFD, l := 0xFF } (fun t => (t.readByte 0xDDFF, t.readByte 0xFDFF)) =
      ((0x77, 0x77), 0xC001, some (.ok 8)) := by decide

theorem test_ld_mem_hl_a_io :
    outcome { code 0xC000 [0x77] with a := 0x01, h := 0xFF, l := 0x40 } (fun t => t.readByte 0xFF40) =
      (0x00, 0xC001, some (.ok 8)) := by decide

theorem test_ld_c_imm :
    outcome (code 0xC000 [0x0E, 0xAB]) (fun t => t.c) =
      (0xAB, 0xC002, some (.ok 8)) := by decide

theorem test_ld_mem_hl_imm :
    outcome { code 0xC000 [0x36, 0x5C] with h := 0x80, l := 0x00 } (fun t => t.readByte 0x8000) =
      (0x5C, 0xC002, some (.ok 12)) := by decide

theorem test_ld_mem_hl_imm_io :
    outcome { code 0xC000 [0x36, 0x5C] with h := 0xFF, l := 0x00 } (fun t => t.readByte 0xFF00) =
      (0x00, 0xC002, some (.ok 12)) := by decide

theorem test_ld_a_mem_bc :
    outcome (poke { code 0xC000 [0x0A] with b := 0xA0, c := 0x00 } [(0xA000, 0x3F)]) (fun t => t.a) =
      (0x3F, 0xC001, some (.ok 8)) := by decide

theorem test_ld_a_mem_de :
    outcome (poke { code 0xC000 [0x1A] with d := 0xFE, e := 0x00 } [(0xFE00, 0x11)]) (fun t => t.a) =
      (0x11, 0xC001, some (.ok 8)) := by decide

theorem test_ld_mem_bc_a :
    outcome { code 0xC000 [0x02] with b := 0xC0, c := 0xFF } (fun t => t.readByte 0xC0FF) =
      (0x01, 0xC001, some (.ok 8)) := by decide

theorem test_ld_mem_de_a :
    outcome { code 0xC000 [0x12] with d := 0xFF, e := 0xFF } (fun t => t.readByte 0xFFFF) =
      (0x01, 0xC001, some (.ok 8)) := by decide

theorem test_ld_mem_hl_inc_a :
    outcome { code 0xC000 [0x22] with h := 0xC0, l := 0xFF } (fun t => (t.pair .hl, t.readByte 0xC0FF)) =
      ((0xC100, 0x01), 0xC001, some (.ok 8)) := by decide

theorem test_ld_mem_hl_inc_a_wraps :
    outcome { code 0xC000 [0x22] with h := 0xFF, l := 0xFF } (fun t => (t.pair .hl, t.readByte 0xFFFF)) =
      ((0x0000, 0x01), 0xC001, some (.ok 8)) := by decide

theorem test_ld_mem_hl_dec_a :
    outcome { code 0xC000 [0x32] with h := 0xC1, l := 0x00 } (fun t => (t.pair .hl, t.readByte 0xC100)) =
      ((0xC0FF, 0x01), 0xC001, some (.ok 8)) := by decide

theorem test_ld_a_mem_hl_inc :
    outcome { code 0xC000 [0x2A] with h := 0xC0, l := 0x00 } (fun t => (t.a, t.pair .hl)) =
      ((0x2A, 0xC001), 0xC001, some (.ok 8)) := by decide

theorem test_ld_a_mem_hl_dec :
    outcome (poke { code 0xC000 [0x3A] with h := 0xFF, l := 0x80 } [(0xFF80, 0xE7)]) (fun t => (t.a, t.pair .hl)) =
      ((0xE7, 0xFF7F), 0xC001, some (.ok 8)) := by decide

theorem test_ld_mem_high_c_a :
    outcome { code 0xC000 [0xE2] with c := 0x80 } (fun t => t.readByte 0xFF80) =
      (0x01, 0xC001, some (.ok 8)) := by decide

theorem test_ld_mem_high_c_a_io :
    outcome (code 0xC000 [0xE2]) (fun t => t.readByte 0xFF13) =
      (0x00, 0xC001, some (.ok 8)) := by decide

theorem test_ld_a_mem_high_c :
    outcome { code 0xC000 [0xF2] with c := 0xFF } (fun t => t.a) =
      (0x00, 0xC001, some (.ok 8)) := by decide

theorem test_ld_a_mem_high_c_io :
    outcome (code 0xC000 [0xF2]) (fun t => t.a) =
      (0x00, 0xC001, some (.ok 8)) := by decide

theorem test_ld_mem_abs_a :
    outcome (code 0xC000 [0xEA, 0x34, 0xC2]) (fun t => t.readByte 0xC234) =
      (0x01, 0xC003, some (.ok 16)) := by decide

theorem test_ld_a_mem_abs_echo :
    outcome (code 0xC000 [0xFA, 0x00, 0xE0]) (fun t => t.a) =
      (0xFA, 0xC003, some (.ok 16)) := by decide

theorem test_ld_a_mem_abs_unusable :
    outcome (code 0xC000 [0xFA, 0xFF, 0xFE]) (fun t => t.a) =
      (0x00, 0xC003, some (.ok 16)) := by decide

theorem test_ld_bc_imm :
    outcome (code 0xC000 [0x01, 0x34, 0x12]) (fun t => (t.b, t.c)) =
      ((0x12, 0x34), 0xC003, some (.ok 12)) := by decide

theorem test_ld_de_imm :
    outcome (code 0xC000 [0x11, 0xFF, 0x00]) (fun t => (t.d, t.e)) =
      ((0x00, 0xFF), 0xC003, some (.ok 12)) := by decide

theorem test_ld_hl_imm_wraps :
    outcome (code 0xFFFE [0x21, 0xAA]) (fun t => (t.h, t.l)) =
      ((0x00, 0xAA), 0x0001, some (.ok 12)) := by decide

theorem test_ld_sp_imm :
    outcome (code 0xC000 [0x31, 0x00, 0x00]) (fun t => (t.sp, fByte t)) =
      ((0x0000, 0xB0), 0xC003, some (.ok 12)) := by decide

theorem test_rla :
    outcome { code 0xC000 [0x17] with a := 0x95, f := unpackFlags 0x10 } (fun t => (t.a, fByte t)) =
      ((0x2B, 0x10), 0xC001, some (.ok 4)) := by decide

theorem test_rla_clears_z :
    outcome { code 0xC000 [0x17] with a := 0x80, f := unpackFlags 0x00 } (fun t => (t.a, fByte t)) =
      ((0x00, 0x10), 0xC001, some (.ok 4)) := by decide

theorem test_rra :
    outcome { code 0xC000 [0x1F] with a := 0x81, f := unpackFlags 0x10 } (fun t => (t.a, fByte t)) =
      ((0xC0, 0x10), 0xC001, some (.ok 4)) := by decide

theorem test_rra_carry_in :
    outcome { code 0xC000 [0x1F] with a := 0x00, f := unpackFlags 0xF0 } (fun t => (t.a, fByte t)) =
      ((0x80, 0x00), 0xC001, some (.ok 4)) := by decide

theorem test_di :
    outcome { code 0xC000 [0xF3] with ime := true } (fun t => (t.ime, fByte t)) =
      ((false, 0xB0), 0xC001, some (.ok 4)) := by decide

theorem test_illegal :
    outcome (code 0xC000 [0xD3]) (fun t => (t.a, fByte t)) =
      ((0x01, 0xB0), 0xC000, some (.failure (.illegalOpcode 0xC000 0xD3))) := by decide

theorem test_unimplemented :
    outcome (code 0xC000 [0xCB]) (fun t => (t.a, fByte t)) =
      ((0x01, 0xB0), 0xC000, some (.failure (.unimplementedOpcode 0xC000 0xCB))) := by decide

/-- R246: the second step returns the same failure and changes nothing. -/
theorem test_failure_is_terminal :
    let t := (code 0xC000 [0xD3]).afterStep
    stepResult t = some (.failure (.illegalOpcode 0xC000 0xD3)) ∧ t.afterStep = t ∧
      t.status = .failed (.illegalOpcode 0xC000 0xD3) := by decide

/-- R6: the trace observer is told of a decoded step, and of nothing else. -/
theorem test_trace :
    traceOf (code 0xC000 [0xF3]) = some { pc := 0xC000, opcode := 0xF3, instr := .di } ∧
      traceOf (code 0xC000 [0xD3]) = none := by decide

/-- V-INC/DEC byte, INC (HL) on ROM: the byte that the two values of ROM_WRITES leave, flags aside. -/
theorem test_inc_of_a_rom_byte :
    Memory.readByte (Memory.writeByte .store [(0x200, 0x41)] 0x0200 (inc8 0x41 (unpackFlags 0)).1) 0x0200 = 0x42 ∧
    Memory.readByte (Memory.writeByte .discard [(0x200, 0x41)] 0x0200 (inc8 0x41 (unpackFlags 0)).1) 0x0200 = 0x41 ∧
    stepResult (poke { code 0xC000 [0x34] with h := 0x02, l := 0x00 } [(0x0200, 0x41)]) = some (.ok 12) := by decide

/-- The host's moves (R278): a session that is legal, and three that are not. -/
theorem test_sessions :
    legalSession [.reset [] [], .writeByte 0xC000 0x01, .load [0x00], .step, .readByte 0xC000] = true ∧
      legalSession [.load [0x00]] = false ∧ legalSession [.reset [] [], .step] = false ∧
      legalSession [.reset [] [], .load [], .load []] = false := by decide

/-- R278: after a failure the host may look, and may not step. -/
theorem test_stop_after_failure :
    stopsAfterFailure [.step, .readByte 0xC000] (code 0xC000 [0xD3]) = true ∧
      stopsAfterFailure [.step, .step] (code 0xC000 [0xD3]) = false ∧
      stopsAfterFailure [.step, .readByte 0xC000, .step] (code 0xC000 [0xD3]) = false ∧
      stopsAfterFailure [.step, .step] (code 0xC000 [0x00]) = true := by decide

/-- R278 over a whole session: 0xD3 at the entry point, stepped once and stepped twice. -/
theorem test_session_stops_after_failure :
    let program := List.replicate 0x100 0x00 ++ [0xD3]
    legalSession [.reset [] [], .load program, .step] = true ∧
      legalSession [.reset [] [], .load program, .step, .step] = false := by decide +kernel

/-- withFetchWord: the very next step runs the word, from reset and from a state whose PC has no cells. -/
theorem test_with_fetch_word :
    (State.reset.withFetchWord 24 0x123401).fetch = .ldBCImm 0x1234 ∧
      ({ State.reset with pc := 0xFF00 }.withFetchWord 8 0xF3).fetch = .di ∧
      (State.reset.withFetchWord 8 0xFC).fetch = .illegal 0xFC := by decide

/-! ### Witnesses: for each statement with hypotheses, values that meet all of them, clause by clause -/

/-- A state with a byte in WRAM, the opcode at PC and HL elsewhere. -/
def busy : State := poke { code 0xC000 [0x77] with a := 0x3C, h := 0xC0, l := 0x01 } [(0xD000, 0x55)]

/-- The same, failed by the reserved opcode 0xD3. -/
def failed : State := (code 0xC000 [0xD3]).afterStep

/-- The next state of an outcome. -/
def nextOf : Result → Option State
  | .next t => some t
  | .fault _ => none
  | .refused _ => none

theorem next_of {r : Result} {t : State} (h : nextOf r = some t) : r = .next t := by
  cases r <;> simp_all [nextOf]

theorem witness_DecodeOfEncodeIsIdentity :
    (Instr.ldMemAbsA 0xFFFF).wf = true ∧ (Instr.illegal 0xFD).wf = true := by decide

theorem witness_EncodeOfDecodeIsIdentity :
    decodeBytes [0xEA, 0x34, 0xD2, 0x99] = .ok (.ldMemAbsA 0xD234, [0x99]) := by decide

theorem witness_LengthIsFixedByOpcode :
    decodeBytes (0x3E :: [0xFF, 0x01]) = .ok (.ldAImm 0xFF, [0x01]) ∧ (decode 0x3E).length = some 2 ∧
      decodeBytes (0xCB :: [0x11]) = .ok (.unimplemented 0xCB, [0x11]) ∧ (decode 0xCB).length = none := by decide

theorem witness_WellFormedTermsAreTheTableRows :
    (Term.ld8 (.mem .highC) (.reg .a)).wf = true ∧
      Instr.ldMemHighCA.reading = .term (.ld8 (.mem .highC) (.reg .a)) := by decide

theorem witness_StepRunsDecodedInstruction :
    let s := poke (code 0xFFFF [0xC3]) [(0x0000, 0x50), (0x0001, 0x12)]
    s.status = .running ∧ (Instr.jpImm 0x1250).wf = true ∧
      decodeBytes [s.readByte s.pc, s.readByte (s.pc + 1), s.readByte (s.pc + 2)] = .ok (.jpImm 0x1250, []) := by
  decide

theorem witness_EveryInstructionAnswersANextState : busy.status = .running ∧ State.reset.status = .running := by decide

theorem witness_StepReturnsCyclesOrTheFailure :
    (busy.status = .running ∧ step busy = .next busy.afterStep ∧ busy.afterStep.status = .running) ∧
    let s := code 0xC000 [0xD3]
    s.status = .running ∧ step s = .next failed ∧ failed.status = .failed (.illegalOpcode 0xC000 0xD3) :=
  ⟨⟨by decide, next_of (by decide), by decide⟩, by decide, next_of (by decide), by decide⟩

theorem witness_ResetGivesThePowerOnState :
    Memory.wf [(0x8000, 0x01), (0xDFFF, 0x55), (0xFFFE, 0x02)] = true ∧ Memory.wf [] = true := by decide

theorem witness_PairsAreViewsOfTheirRegisters :
    (Reg16.bc, Spec.pairBC) ∈ Spec.wordCells ∧ (Reg16.sp, Spec.pairSP) ∈ Spec.wordCells ∧ Reg8.l ≠ Reg8.h :=
  ⟨.head _, .tail _ (.tail _ (.tail _ (.head _))), by decide⟩

theorem witness_ImeIsClearedByDiAndReadByNothing :
    exec .di { busy with ime := true } = .next { busy with ime := false, pc := 0xC001 } ∧
    exec .nop { busy with ime := true } = .next { busy with ime := true, pc := 0xC001 } :=
  ⟨next_of (by decide), next_of (by decide)⟩

theorem witness_SpIsOnlyUsedByItsThreeInstructions :
    ((∀ nn, Instr.incBC ≠ .ldSPImm nn) ∧ Instr.incBC ≠ .incSP ∧ Instr.incBC ≠ .decSP) ∧
    exec .incBC busy = .next { busy with c := 0x14, pc := 0xC001 } :=
  ⟨⟨fun _ => Instr.noConfusion, by decide, by decide⟩, next_of (by decide)⟩

theorem witness_FlagsChangeAsTheTableSays :
    Instr.cpB.reading = .term (.cp (.reg .b)) ∧
      exec .cpB busy = .next { busy with f := unpackFlags 0x40, pc := 0xC001 } ∧
      ({ busy with f := unpackFlags 0x40, pc := 0xC001 } : State).status = .running :=
  ⟨by decide, next_of (by decide), by decide⟩

theorem witness_RegistersOutsideTheDestinationAreUnchanged :
    exec .ldAMemHLInc busy = .next { busy with a := 0x00, l := 0x02, pc := 0xC001 } ∧
      Reg8.b ∉ Spec.instrRegs .ldAMemHLInc ∧
      (∀ nn, Instr.ldAMemHLInc ≠ .ldSPImm nn) ∧ Instr.ldAMemHLInc ≠ .incSP ∧ Instr.ldAMemHLInc ≠ .decSP :=
  ⟨next_of (by decide), by decide, fun _ => Instr.noConfusion, by decide, by decide⟩

theorem witness_PcAdvancesByTheLength :
    (Instr.illegal 0xD3).wf = true ∧ busy.status = .running ∧
      exec (.illegal 0xD3) busy = .next (busy.fail (.illegalOpcode 0xC000 0xD3)) ∧
      (busy.fail (.illegalOpcode 0xC000 0xD3)).status ≠ .running ∧
    (Instr.ldSPImm 0x1234).wf = true ∧ Spec.isJump (.ldSPImm 0x1234) = false ∧
      exec (.ldSPImm 0x1234) busy = .next { busy with sp := 0x1234, pc := 0xC003 } :=
  ⟨by decide, by decide, next_of (by decide), by decide, by decide, by decide, next_of (by decide)⟩

/-- The last offset of each range of R51. -/
theorem witness_AddressMapGivesTheRegions :
    0x7FFF < 0x8000 ∧ 0x1FFF < 0x2000 ∧ 0x1DFF < 0x1E00 ∧ 0x9F < 0xA0 ∧ 0x5F < 0x60 ∧ 0x7F < 0x80 := by decide

/-- Each side of the condition: a shared cell through the Echo; another cell, a discarded ROM write, no cell. -/
theorem witness_WriteByteChangesTheCellItReaches :
    (Spec.accepts .discard 0xDDFF = true ∧ Spec.home 0xFDFF = Spec.home 0xDDFF) ∧
    Spec.home 0xDE00 ≠ Spec.home 0xDDFF ∧ Spec.accepts .discard 0x7FFF = false ∧
    Spec.accepts .store 0x7FFF = true ∧ Spec.accepts .store 0xFF7F = false := by decide

/-- The ends of both ranges. -/
theorem witness_EchoSharesWramCells :
    (0xC000 ≤ (0xC000 : Word).toNat ∧ (0xDDFF : Word).toNat ≤ 0xDDFF) ∧
    (0xDE00 ≤ (0xDE00 : Word).toNat ∧ (0xDFFF : Word).toNat ≤ 0xDFFF ∧ (0xE000 : Word) ≠ 0xDFFF) := by decide

/-- The first and last address of the range, and its neighbours on the other side. -/
theorem witness_UnbackedAddressesReadZero :
    (0xFEA0 ≤ (0xFEA0 : Word).toNat ∧ (0xFEA0 : Word).toNat ≤ 0xFF7F) ∧
    (0xFEA0 ≤ (0xFF7F : Word).toNat ∧ (0xFF7F : Word).toNat ≤ 0xFF7F) ∧
    ¬(0xFEA0 ≤ (0xFE9F : Word).toNat ∧ (0xFE9F : Word).toNat ≤ 0xFF7F) ∧
    ¬(0xFEA0 ≤ (0xFF80 : Word).toNat ∧ (0xFF80 : Word).toNat ≤ 0xFF7F) := by decide

/-- A legal session cut at its load, cut at a step, and the parts of one built from pokes and a run. -/
theorem witness_LoadCopiesTheProgramIntoRom :
    legalSession ([.reset [] [], .writeByte 0x8000 0x01] ++ .load [0xC3] :: [.step]) = true ∧
    legalSession ([.reset [] [], .load [0xC3], .readByte 0xC000] ++ .step :: [.step]) = true ∧
    (∀ move ∈ [HostMove.writeByte 0x0005 0x77], Spec.IsPoke move) ∧
    ∀ move ∈ [HostMove.step, .readByte 0xC000], move = .step ∨ Spec.IsPoke move :=
  ⟨by decide, by decide, by simp [Spec.IsPoke], by simp [Spec.IsPoke]⟩

/-- A form that stores nothing, and one whose address b does not share. -/
theorem witness_StoresReachOnlyTheirAddress :
    (exec .ldMemHLA busy = .next busy.afterStep ∧ storeAddr .ldMemHLA busy = some 0xC001 ∧
      Spec.home 0xC002 ≠ Spec.home 0xC001) ∧
    (exec .nop busy = .next { busy with pc := 0xC001 } ∧ storeAddr .nop busy = none) :=
  ⟨⟨next_of (by decide), by decide, by decide⟩, next_of (by decide), by decide⟩

theorem witness_StoredCodeIsFetchedNext :
    busy.status = .running ∧ busy.fetch = .ldMemHLA ∧ busy.pair .hl = busy.pc + 1 ∧
      0x8000 ≤ (busy.pc + 1).toNat ∧ Spec.unbacked (busy.pc + 1) = false := by decide

/-- Both ends of the range. -/
theorem witness_NopOnlyAdvancesPc :
    (0xFEA0 ≤ ({ busy with pc := 0xFEA0 } : State).pc.toNat ∧ ({ busy with pc := 0xFEA0 } : State).pc.toNat ≤ 0xFF7F) ∧
    (0xFEA0 ≤ ({ busy with pc := 0xFF7F } : State).pc.toNat ∧ ({ busy with pc := 0xFF7F } : State).pc.toNat ≤ 0xFF7F) := by
  decide

theorem witness_AddSetsAccumulatorAndFlags : (0x80, .addAB, State.b) ∈ Spec.addRows := .head _

theorem witness_AdcSetsAccumulatorAndFlags : (0x88, .adcAB, State.b) ∈ Spec.adcRows := .head _

theorem witness_CpSetsOnlyFlags : (0xB8, .cpB, State.b) ∈ Spec.cpRows := .head _

theorem witness_OrSetsAccumulatorAndFlags : (0xB0, .orB, State.b) ∈ Spec.orRows := .head _

theorem witness_XorSetsAccumulatorAndFlags : (0xA8, .xorB, State.b) ∈ Spec.xorRows := .head _

theorem witness_IncAndDecOfARegister :
    (0x04, .incB, Spec.regB) ∈ Spec.incRows ∧ (0x05, .decB, Spec.regB) ∈ Spec.decRows := ⟨.head _, .head _⟩

/-- HL at both ends of the range without cells and beside it. -/
theorem witness_IncAndDecOfTheByteAtHL :
    let at' (hl : Word) : State := busy.setPair .hl hl
    (0xFEA0 ≤ ((at' 0xFEA0).pair .hl).toNat ∧ ((at' 0xFF7F).pair .hl).toNat ≤ 0xFF7F) ∧
    ¬(0xFEA0 ≤ ((at' 0xFE9F).pair .hl).toNat) ∧ ¬(((at' 0xFF80).pair .hl).toNat ≤ 0xFF7F) := by decide

theorem witness_IncAndDecOfAWord :
    (0x03, .incBC, Spec.pairBC) ∈ Spec.incPairRows ∧ (0x0B, .decBC, Spec.pairBC) ∈ Spec.decPairRows :=
  ⟨.head _, .head _⟩

theorem witness_JumpsChangeOnlyPc : Spec.isJump (.jrNZRel 0x80) = true ∧ Spec.isJump .jpHL = true := by decide

/-- A conditional jump's condition true and false. -/
theorem witness_AbsoluteJump :
    (0xC2, .jpNZImm, fun f : Flags => !f.z) ∈ Spec.jpRows ∧ Instr.jpHL.reading = .term .jpHL ∧
      (!(unpackFlags 0x00).z) = true ∧ (!(unpackFlags 0x80).z) = false := ⟨.head _, rfl, rfl, rfl⟩

theorem witness_RelativeJump :
    (0x20, .jrNZRel, fun f : Flags => !f.z) ∈ Spec.jrRows ∧ (!(unpackFlags 0x00).z) = true ∧
      (!(unpackFlags 0x80).z) = false := ⟨.head _, rfl, rfl⟩

theorem witness_LoadRegisterFromRegister : (0x40, .ldBB, Spec.regB, State.b) ∈ Spec.ldRegRows := .head _

theorem witness_LoadRegisterFromHLOrImmediate :
    (0x46, .ldBMemHL, Spec.regB) ∈ Spec.ldFromHLRows ∧ (0x06, .ldBImm, Spec.regB) ∈ Spec.ldImmRows :=
  ⟨.head _, .head _⟩

theorem witness_StoreAtHL : (0x70, .ldMemHLB, State.b) ∈ Spec.ldToHLRows := .head _

theorem witness_LoadWordImmediate : (0x01, .ldBCImm, Spec.pairBC) ∈ Spec.ldWordRows := .head _

theorem witness_UndecodedOpcodesRecordTheirFailure :
    (let s := code 0xC000 [0xD3]
     s.status = .running ∧ decode s.opcode matches .illegal ∧ step s = .next failed) ∧
    (let s := code 0xC000 [0xCB]
     s.status = .running ∧ decode s.opcode matches .unimplemented ∧ step s = .next s.afterStep) :=
  ⟨⟨by decide, by decide, next_of (by decide)⟩, by decide, by decide, next_of (by decide)⟩

/-- HL at both ends of the range without cells. -/
theorem witness_OnlyReadModifyWriteRaisesInvalidAccess :
    let s := busy.setPair .hl 0xFEA0
    let u := busy.setPair .hl 0xFF7F
    (s.status = .running ∧ exec .incMemHL s = .next (s.fail (.invalidMutableAccess 0xFEA0 0xC000))) ∧
    (u.status = .running ∧ exec .decMemHL u = .next (u.fail (.invalidMutableAccess 0xFF7F 0xC000))) ∧
    (s.fail (.invalidMutableAccess 0xFEA0 0xC000)).status = .failed (.invalidMutableAccess 0xFEA0 0xC000) :=
  ⟨⟨by decide, next_of (by decide)⟩, ⟨by decide, next_of (by decide)⟩, by decide⟩

theorem witness_FailingStepChangesOnlyTheStatus :
    (code 0xC000 [0xD3]).status = .running ∧ step (code 0xC000 [0xD3]) = .next failed ∧
      failed.status = .failed (.illegalOpcode 0xC000 0xD3) :=
  ⟨by decide, next_of (by decide), by decide⟩

theorem witness_FailureIsTerminal : failed.status = .failed (.illegalOpcode 0xC000 0xD3) := by decide

theorem witness_StepKeepsMemoryCanonical : MemoryCanonical busy ∧ step busy = .next busy.afterStep :=
  ⟨(by decide : Memory.wf busy.mem = true), next_of (by decide)⟩

/-- A step that fails, so that the conclusion says something. -/
theorem witness_StepKeepsFailuresPrecise :
    FailurePrecise (code 0xC000 [0xD3]) ∧ step (code 0xC000 [0xD3]) = .next failed :=
  ⟨trivial, next_of (by decide)⟩

theorem witness_HostMovesKeepMemoryCanonical : MemoryCanonical busy :=
  (by decide : Memory.wf busy.mem = true)


end Sys2Proof.Tests
end

section
/-! SUPPORT. Reset (R35, R270): its memory at every address, and the invariants it meets. -/

open Sys2Proof Sys2Proof.Machine

namespace Sys2Proof.Machine

/-- One cell of a draw of `INIT_RAM` taken into memory, where `INIT_RAM` covers it. -/
def takeDrawn (m : Memory) (cell : Host.Cell) : Memory :=
  if initRamCovers cell.1 then Memory.store m cell.1 cell.2 else m

theorem initMemory_eq_foldl (draw : List Host.Cell) : initMemory draw = draw.foldl takeDrawn [] := rfl

theorem lookup_takeDrawn (m : Memory) (cell : Host.Cell) (k : Nat) :
    Memory.lookup (takeDrawn m cell) k =
      if initRamCovers k ∧ cell.1 = k then cell.2 else Memory.lookup m k := by
  unfold takeDrawn
  by_cases hk : cell.1 = k
  · subst hk
    split_ifs <;> simp_all
  · split_ifs <;> simp_all [Ne.symm hk]

theorem lookup_of_keys_ne (m : Memory) (k : Nat) (h : ∀ cell ∈ m, cell.1 ≠ k) :
    Memory.lookup m k = unlistedByte := by
  induction m with
  | nil => rfl
  | cons cell rest ih =>
    rw [Memory.lookup, if_neg (h cell (by simp))]
    exact ih fun c hc => h c (by simp [hc])

theorem lookup_foldl_takeDrawn_of_keys_ne (draw : List Host.Cell) (k : Nat) (h : ∀ cell ∈ draw, cell.1 ≠ k) :
    ∀ m : Memory, Memory.lookup (draw.foldl takeDrawn m) k = Memory.lookup m k := by
  induction draw with
  | nil => exact fun m => rfl
  | cons cell rest ih =>
    intro m
    rw [List.foldl_cons, ih (fun c hc => h c (by simp [hc])), lookup_takeDrawn]
    simp [h cell]

/-- Where no key is drawn twice, a covered cell that memory does not list yet takes the byte that the draw gives it. -/
theorem lookup_foldl_takeDrawn (draw : Memory) (k : Nat) (hd : draw.Pairwise (fun x y => x.1 < y.1)) :
    ∀ m : Memory, Memory.lookup m k = unlistedByte →
      Memory.lookup (draw.foldl takeDrawn m) k = if initRamCovers k then Memory.lookup draw k else unlistedByte := by
  induction draw with
  | nil => exact fun m hm => by simp [hm, Memory.lookup]
  | cons cell rest ih =>
    intro m hm
    obtain ⟨hlt, hrest⟩ := List.pairwise_cons.mp hd
    rw [List.foldl_cons, Memory.lookup]
    by_cases hk : cell.1 = k
    · rw [lookup_foldl_takeDrawn_of_keys_ne rest k fun c hc => by have := hlt c hc; omega, lookup_takeDrawn, hm]
      simp [hk]
    · rw [ih hrest _ (by rw [lookup_takeDrawn, if_neg fun h => hk h.2, hm]), if_neg hk]

/-- A canonical draw gives every cell that `INIT_RAM` covers its byte; the other cells hold 0x00 (R35). -/
theorem lookup_initMemory (draw : Memory) (k : Nat) (h : Memory.wf draw = true) :
    Memory.lookup (initMemory draw) k = if initRamCovers k then Memory.lookup draw k else unlistedByte :=
  lookup_foldl_takeDrawn draw k ((Memory.wf_iff draw).mp h).1 [] rfl

/-- A write to the I/O window is discarded (R59). -/
theorem Memory.writeByte_io (p : RomWrites) (m : Memory) (a : Word) (v : Byte) (h : region a = .io) :
    Memory.writeByte p m a v = m := by
  rw [Memory.writeByte, h]

/-- Of the power-on writes only the one to 0xFFFF shows (R270). -/
theorem powerOnWrites_eq (io : List (Word × Byte)) (m : Memory) :
    powerOnWrites io m = Memory.writeByte Config.romWrites m 0xFFFF 0x00 := by
  have discarded (w : Word × Byte) :
      (if region w.1 = .io then Memory.writeByte Config.romWrites m w.1 w.2 else m) = m :=
    ite_eq_right_iff.mpr (Memory.writeByte_io _ m w.1 w.2)
  rw [powerOnWrites, List.foldl_fixed' (f := fun m w => _) discarded]

theorem resetWith_mem (draw : List Host.Cell) (io : List (Word × Byte)) :
    (State.resetWith draw io).mem = Memory.writeByte Config.romWrites (initMemory draw) 0xFFFF 0x00 :=
  powerOnWrites_eq io (initMemory draw)

/-- `INIT_RAM` covers the cells of the addresses from 0x8000 to 0xFFFE (R35). -/
theorem initRamCovers_of_cellOf (a : Word) (k : Nat) (h : cellOf a = some k) :
    initRamCovers k = true ↔ 0x8000 ≤ a.toNat ∧ a ≠ 0xFFFF := by
  have home := isHome_of_cellOf a k h
  have ha : a = 0xFFFF ↔ a.toNat = 0xFFFF := BitVec.toNat_inj.symm
  simp only [initRamCovers, home, Bool.true_and, Bool.and_eq_true, decide_eq_true_eq, bne_iff_ne, ne_eq, ha]
  rw [cellOf_eq] at h
  split_ifs at h <;> simp only [Option.some.injEq] at h <;> omega

/-- 0xFFFF has a cell of its own. -/
theorem cellOf_eq_cellOf_last_iff (a : Word) : cellOf a = cellOf 0xFFFF ↔ a = 0xFFFF := by
  have last : cellOf 0xFFFF = some 0xFFFF := rfl
  have ha : a = 0xFFFF ↔ a.toNat = 0xFFFF := BitVec.toNat_inj.symm
  rw [last, ha, cellOf_eq]
  split_ifs <;> simp <;> omega

/-- What every address reads as once the draw is taken (R35). -/
theorem readByte_initMemory (draw : Memory) (a : Word) (h : Memory.wf draw = true) (ha : a ≠ 0xFFFF) :
    Memory.readByte (initMemory draw) a = if 0x8000 ≤ a.toNat then Memory.readByte draw a else 0x00 := by
  unfold Memory.readByte
  cases hk : cellOf a with
  | none => simp
  | some k => simp only [lookup_initMemory draw k h, initRamCovers_of_cellOf a k hk, and_iff_left ha, unlistedByte]

/-- What every address reads as after reset (R35). -/
theorem readByte_resetWith (draw : Memory) (io : List (Word × Byte)) (a : Word) (h : Memory.wf draw = true) :
    (State.resetWith draw io).readByte a =
      if 0x8000 ≤ a.toNat ∧ a ≠ 0xFFFF then Memory.readByte draw a else 0x00 := by
  rw [State.readByte, resetWith_mem, Memory.readByte_writeByte]
  by_cases ha : a = 0xFFFF
  · subst ha
    rw [if_pos ⟨rfl, rfl, fun hrom => absurd hrom.1 (by decide)⟩, if_neg fun h => h.2 rfl]
  · rw [if_neg fun h => ha ((cellOf_eq_cellOf_last_iff a).mp h.2.1), readByte_initMemory draw a h ha]
    simp only [and_iff_left ha]

/-- The memory after reset is canonical, whatever was drawn. -/
theorem memoryCanonical_resetWith (draw : List Host.Cell) (io : List (Word × Byte)) :
    MemoryCanonical (State.resetWith draw io) := by
  rw [MemoryCanonical, resetWith_mem]
  exact Memory.wf_writeByte _ _ _ _ (wf_initMemory draw)

/-- A running state has no failure to be precise about. -/
theorem failurePrecise_of_running {s : State} (h : s.status = .running) : FailurePrecise s := by
  rw [FailurePrecise, h]
  trivial

end Sys2Proof.Machine

namespace Sys2Proof

/-- Settles O10: no register depends on the draw, and `readByte_resetWith` gives every address. -/
theorem resetGivesThePowerOnState : Obligations.ResetGivesThePowerOnState := fun draw io h =>
  ⟨rfl, rfl, rfl, (by decide : packFlags State.reset.f = 0xB0), rfl, rfl, rfl, rfl, rfl, rfl,
    (by decide : State.reset.pair .bc = 0x0013), (by decide : State.reset.pair .de = 0x00D8),
    (by decide : State.reset.pair .hl = 0x014D), rfl, rfl,
    fun a => readByte_resetWith draw io a h⟩

/-- Settles O59: `State.reset` is the reset of the empty draw. -/
theorem resetMeetsTheInvariants : Obligations.ResetMeetsTheInvariants := by
  have meets (draw : List Host.Cell) (io : List (Word × Byte)) :
      (State.resetWith draw io).status = .running ∧ MemoryCanonical (State.resetWith draw io) ∧
        FailurePrecise (State.resetWith draw io) :=
    ⟨rfl, memoryCanonical_resetWith draw io, failurePrecise_of_running rfl⟩
  exact ⟨resetWith_nil ▸ meets [] [], meets⟩

end Sys2Proof
end

section
/-! SUPPORT. The pair views (R21, R22) and the packed flags (R24). -/

open Sys2Proof Sys2Proof.Machine

namespace Sys2Proof.Machine

theorem hiByte_eq (w : Word) : hiByte w = Spec.hi w.toNat := by
  have := w.isLt
  apply BitVec.eq_of_toNat_eq
  rw [toNat_hiByte, Spec.hi, BitVec.toNat_ofNat]
  omega

theorem loByte_eq (w : Word) : loByte w = Spec.lo w.toNat := by
  apply BitVec.eq_of_toNat_eq
  rw [toNat_loByte, Spec.lo, BitVec.toNat_ofNat]
  omega

/-- The packed byte as a sum of the flags' weights (R24). -/
theorem toNat_packFlags (f : Flags) :
    (packFlags f).toNat = f.z.toNat * 128 + f.n.toNat * 64 + f.h.toNat * 32 + f.c.toNat * 16 := by
  obtain ⟨z, n, h, c⟩ := f
  cases z <;> cases n <;> cases h <;> cases c <;> rfl

/-- Packing what a byte unpacks to clears its low nibble (R24). -/
theorem packFlags_unpackFlags (v : Byte) : packFlags (unpackFlags v) = v &&& 0xF0 := by
  apply BitVec.eq_of_getLsbD_eq
  intro i hi
  simp only [packFlags, unpackFlags, BitVec.getLsbD_append]
  interval_cases i <;> simp

end Sys2Proof.Machine

namespace Sys2Proof

/-- Settles O11: a pair is two bytes joined, or SP. -/
theorem pairsAreViewsOfTheirRegisters : Obligations.PairsAreViewsOfTheirRegisters := by
  refine ⟨fun row hrow s v => ⟨?_, ?_, by simp⟩, fun s r q v => ⟨by simp, fun h => by simp [h]⟩⟩
  all_goals
    simp only [Spec.wordCells, List.mem_cons, List.not_mem_nil, or_false] at hrow
    obtain rfl | rfl | rfl | rfl := hrow
  · exact toNat_wordOf s.b s.c
  · exact toNat_wordOf s.d s.e
  · exact toNat_wordOf s.h s.l
  · rfl
  · simp only [State.setPair, Spec.pairBC, hiByte_eq, loByte_eq]
  · simp only [State.setPair, Spec.pairDE, hiByte_eq, loByte_eq]
  · simp only [State.setPair, Spec.pairHL, hiByte_eq, loByte_eq]
  · simp only [State.setPair, Spec.pairSP, BitVec.ofNat_toNat, BitVec.setWidth_eq]

/-- Settles O12: each of the four flags is one bit of the packed byte. -/
theorem flagPackingIsLossless : Obligations.FlagPackingIsLossless :=
  ⟨fun f => ⟨toNat_packFlags f, unpack_pack_cases f.z f.n f.h f.c⟩, packFlags_unpackFlags⟩

end Sys2Proof
end

section
/-! SUPPORT. What the instructions do to SP and IME (R30, R31). `readingRun_withSpIme` says it once for every
instruction: from a state with other values of SP and IME the next state is the same but for those two, and what they
become depends on their old values and the instruction alone. -/

open Sys2Proof Sys2Proof.Machine

namespace Sys2Proof.Machine

/-- The state with SP and IME replaced. -/
def State.withSpIme (s : State) (w : Word) (v : Bool) : State := { s with sp := w, ime := v }

/-- What SP becomes (R30). -/
def spAfter : Reading → Word → Word
  | .term (.ld16 .sp nn), _ => nn
  | .term (.inc16 .sp), w => w + 1
  | .term (.dec16 .sp), w => w - 1
  | _, w => w

/-- What IME becomes (R31). -/
def imeAfter : Reading → Bool → Bool
  | .term .di, _ => false
  | _, v => v

/-! ### The shared operations -/

section
variable (s : State) (w : Word) (v : Bool)

theorem ea_withSpIme (m : Mem8) : ea m (s.withSpIme w v) = ea m s := by
  cases m <;> rfl

theorem readSrc_withSpIme (x : Src8) : readSrc x (s.withSpIme w v) = readSrc x s := by
  cases x with
  | reg r => cases r <;> rfl
  | imm n => rfl
  | mem m => exact congrArg s.readByte (ea_withSpIme s w v m)

theorem setReg_withSpIme (r : Reg8) (n : Byte) : (s.withSpIme w v).setReg r n = (s.setReg r n).withSpIme w v := by
  cases r <;> rfl

theorem writeDst_withSpIme (x : Dst8) (n : Byte) :
    writeDst x n (s.withSpIme w v) = (writeDst x n s).withSpIme w v := by
  cases x with
  | reg r => exact setReg_withSpIme s w v r n
  | mem m =>
    rw [writeDst, ea_withSpIme]
    rfl

theorem post_withSpIme (m : Mem8) : post m (s.withSpIme w v) = (post m s).withSpIme w v := by
  cases m <;> rfl

theorem postDst_withSpIme (x : Dst8) : postDst x (s.withSpIme w v) = (postDst x s).withSpIme w v := by
  cases x with
  | reg r => rfl
  | mem m => exact post_withSpIme s w v m

theorem postSrc_withSpIme (x : Src8) : postSrc x (s.withSpIme w v) = (postSrc x s).withSpIme w v := by
  cases x with
  | reg r => rfl
  | imm n => rfl
  | mem m => exact post_withSpIme s w v m

theorem load8_withSpIme (d : Dst8) (x : Src8) : load8 d x (s.withSpIme w v) = (load8 d x s).withSpIme w v := by
  rw [load8, readSrc_withSpIme, writeDst_withSpIme, postDst_withSpIme, postSrc_withSpIme, load8]

theorem stepMemHL_withSpIme (g : Byte → Flags → Byte × Flags) :
    stepMemHL g (s.withSpIme w v) = (stepMemHL g s).withSpIme w v := by
  have hl : (s.withSpIme w v).pair .hl = s.pair .hl := rfl
  simp only [stepMemHL, hl]
  cases getMutableByte (s.pair .hl) <;> rfl

theorem stepRun_withSpIme (g : Byte → Flags → Byte × Flags) (d : Dst8) :
    stepRun g d (s.withSpIme w v) = (stepRun g d s).withSpIme w v := by
  cases d with
  | reg r => cases r <;> rfl
  | mem m => exact stepMemHL_withSpIme s w v g

/-! ### Every instruction -/

theorem termRun_withSpIme (t : Term) :
    termRun t (s.withSpIme w v) = (termRun t s).withSpIme (spAfter (.term t) w) (imeAfter (.term t) v) := by
  cases t with
  | nop => rfl
  | add x => rw [termRun, addA, readSrc_withSpIme]; rfl
  | adc x => rw [termRun, adcA, readSrc_withSpIme]; rfl
  | cp x => rw [termRun, cpA, readSrc_withSpIme]; rfl
  | or x => rw [termRun, orA, readSrc_withSpIme]; rfl
  | xor x => rw [termRun, xorA, readSrc_withSpIme]; rfl
  | inc8 d => exact stepRun_withSpIme s w v inc8 d
  | dec8 d => exact stepRun_withSpIme s w v dec8 d
  | inc16 p => cases p <;> rfl
  | dec16 p => cases p <;> rfl
  | jp cc nn => rw [termRun, jumpAbs_eq, termRun, jumpAbs_eq]; rfl
  | jpHL => rfl
  | jr cc e => rw [termRun, jumpRel_eq, termRun, jumpRel_eq]; rfl
  | ld8 d x => rw [termRun, load8_withSpIme]; rfl
  | ld16 p nn => cases p <;> rfl
  | rla => rfl
  | rra => rfl
  | di => rfl

theorem readingRun_withSpIme (r : Reading) :
    readingRun r (s.withSpIme w v) = (readingRun r s).withSpIme (spAfter r w) (imeAfter r v) := by
  cases r with
  | term t => exact termRun_withSpIme s w v t
  | illegal op => rfl
  | unimplemented op => rfl

theorem readingRun_sp (r : Reading) : (readingRun r s).sp = spAfter r s.sp :=
  congrArg State.sp (readingRun_withSpIme s s.sp s.ime r)

theorem readingRun_ime (r : Reading) : (readingRun r s).ime = imeAfter r s.ime :=
  congrArg State.ime (readingRun_withSpIme s s.sp s.ime r)

/-- Starting with another SP alone. -/
theorem readingRun_withSp (r : Reading) :
    readingRun r { s with sp := w } = { readingRun r s with sp := spAfter r w } := by
  have h := readingRun_withSpIme s w s.ime r
  rw [← readingRun_ime] at h
  exact h

/-- Starting with another IME alone. -/
theorem readingRun_withIme (r : Reading) :
    readingRun r { s with ime := v } = { readingRun r s with ime := imeAfter r v } := by
  have h := readingRun_withSpIme s s.sp v r
  rw [← readingRun_sp] at h
  exact h

end

/-- IME after an instruction is 0 for DI and else what it was (R31). -/
theorem imeAfter_reading (i : Instr) (v : Bool) : imeAfter i.reading v = if i = .di then false else v := by
  split
  · next h => rw [h]; rfl
  · next h =>
    cases i with
    | di => exact absurd rfl h
    | _ => rfl

/-- SP after an instruction other than its three is what it was (R30). -/
theorem spAfter_reading (i : Instr) (w : Word) (hld : ∀ nn, i ≠ .ldSPImm nn) (hinc : i ≠ .incSP)
    (hdec : i ≠ .decSP) : spAfter i.reading w = w := by
  cases i with
  | ldSPImm nn => exact absurd rfl (hld nn)
  | incSP => exact absurd rfl hinc
  | decSP => exact absurd rfl hdec
  | _ => rfl

/-- The next state an instruction answers is the one of what it reads as. -/
theorem exec_eq_next_iff (i : Instr) (s t : State) : exec i s = .next t ↔ readingRun i.reading s = t := by
  rw [exec_of_reading, Host.Outcome.next.injEq]

end Sys2Proof.Machine

namespace Sys2Proof

/-- Settles O13: IME becomes `imeAfter` of its old value, and nothing else depends on it. -/
theorem imeIsClearedByDiAndReadByNothing : Obligations.ImeIsClearedByDiAndReadByNothing := by
  refine ⟨rfl, fun i s t h => ?_, fun i s v => ?_⟩
  · rw [← (exec_eq_next_iff i s t).mp h, readingRun_ime, imeAfter_reading]
  · rw [exec_of_reading, exec_of_reading, readingRun_withIme, imeAfter_reading, Spec.mapNext]

/-- Settles O14: SP becomes `spAfter` of its old value, and nothing else depends on it. -/
theorem spIsOnlyUsedByItsThreeInstructions : Obligations.SpIsOnlyUsedByItsThreeInstructions := by
  refine ⟨fun i s v hld hinc hdec => ⟨fun t h => ?_, ?_⟩, fun nn s v => rfl⟩
  · rw [← (exec_eq_next_iff i s t).mp h, readingRun_sp, spAfter_reading i _ hld hinc hdec]
  · rw [exec_of_reading, exec_of_reading, readingRun_withSp, spAfter_reading i _ hld hinc hdec, Spec.mapNext]

end Sys2Proof
end

section
/-! SUPPORT. What a term does to the fault status, the flags, the data registers and PC, one lemma each over the
constructors of `Term`. -/

open Sys2Proof Sys2Proof.Machine

namespace Sys2Proof.Machine

/-! ### The fault status -/

/-- INC and DEC of a byte fail, or take the flags and the result of one byte and move PC past their one byte. -/
theorem stepRun_cases (g : Byte → Flags → Byte × Flags) (d : Dst8) (s : State) :
    (∃ x, stepRun g d s = s.fail x) ∨
    ∃ v, (stepRun g d s).f = (g v s.f).2 ∧ (stepRun g d s).pc = s.pc + 1 ∧ (stepRun g d s).status = s.status ∧
      ∀ r, d ≠ .reg r → (stepRun g d s).reg r = s.reg r := by
  cases d with
  | reg r =>
    refine .inr ⟨s.reg r, rfl, by simp [stepRun, stepReg], by simp [stepRun, stepReg], fun q hq => ?_⟩
    have kept := State.reg_setReg s r q (g (s.reg r) s.f).1
    rw [if_neg fun h : q = r => hq (congrArg Dst8.reg h.symm)] at kept
    rw [← kept]
    cases q <;> rfl
  | mem m =>
    rcases stepMemHL_cases g s with ⟨-, h⟩ | ⟨-, h⟩
    · exact .inl ⟨_, h⟩
    · refine .inr ⟨s.readByte (s.pair .hl), ?_⟩
      rw [stepRun, h]
      exact ⟨rfl, rfl, rfl, fun r _ => by cases r <;> rfl⟩

/-- A term keeps the fault status, or takes a failure (R37, R245). -/
theorem termRun_status_cases (t : Term) (s : State) :
    (termRun t s).status = s.status ∨ ∃ x, termRun t s = s.fail x := by
  have byteStep (g : Byte → Flags → Byte × Flags) (d : Dst8) :
      (stepRun g d s).status = s.status ∨ ∃ x, stepRun g d s = s.fail x := by
    obtain h | ⟨v, -, -, h, -⟩ := stepRun_cases g d s
    · exact .inr h
    · exact .inl h
  cases t with
  | inc8 d => exact byteStep inc8 d
  | dec8 d => exact byteStep dec8 d
  | inc16 p => exact .inl (State.setPair_status s p _)
  | dec16 p => exact .inl (State.setPair_status s p _)
  | ld16 p nn => exact .inl (State.setPair_status s p nn)
  | ld8 d x =>
    obtain ⟨-, -, -, -, h⟩ := load8_frame d x s
    exact .inl h
  | jp cc nn => exact .inl (by rw [termRun, jumpAbs_eq])
  | jr cc e => exact .inl (by rw [termRun, jumpRel_eq])
  | nop | add _ | adc _ | cp _ | or _ | xor _ | jpHL | rla | rra | di => exact .inl rfl

/-- An instruction keeps the fault status, or takes a failure and changes nothing else (R37, R245). -/
theorem readingRun_status_cases (r : Reading) (s : State) :
    (readingRun r s).status = s.status ∨ ∃ x, readingRun r s = s.fail x := by
  cases r with
  | term t => exact termRun_status_cases t s
  | illegal op => exact .inr ⟨_, rfl⟩
  | unimplemented op => exact .inr ⟨_, rfl⟩

/-- A successful INC or DEC of a byte takes the flags of one byte and moves PC by one. -/
theorem stepRun_of_running {g : Byte → Flags → Byte × Flags} {d : Dst8} {s : State}
    (h : (stepRun g d s).status = .running) :
    ∃ v, (stepRun g d s).f = (g v s.f).2 ∧ (stepRun g d s).pc = s.pc + 1 := by
  obtain ⟨x, hx⟩ | ⟨v, hf, hpc, -, -⟩ := stepRun_cases g d s
  · rw [hx] at h
    cases h
  · exact ⟨v, hf, hpc⟩

/-! ### The flags -/

/-- The flags before and after obey a row of the table after R28. -/
def ObeysRow (row : Spec.FlagEffect × Spec.FlagEffect × Spec.FlagEffect × Spec.FlagEffect) (f f' : Flags) : Prop :=
  row.1.Obeyed f.z f'.z ∧ row.2.1.Obeyed f.n f'.n ∧ row.2.2.1.Obeyed f.h f'.h ∧ row.2.2.2.Obeyed f.c f'.c

theorem obeysRow_unchanged {f f' : Flags} (h : f' = f) :
    ObeysRow (.unchanged, .unchanged, .unchanged, .unchanged) f f' :=
  h ▸ ⟨rfl, rfl, rfl, rfl⟩

/-- A term that succeeds obeys its row. -/
theorem termRun_obeysRow (t : Term) (s : State) (h : (termRun t s).status = .running) :
    ObeysRow (Spec.flagRow t) s.f (termRun t s).f := by
  cases t with
  | add _ | adc _ | cp _ => exact ⟨trivial, rfl, trivial, trivial⟩
  | or _ | xor _ => exact ⟨trivial, rfl, rfl, rfl⟩
  | rla | rra => exact ⟨rfl, rfl, rfl, trivial⟩
  | inc8 d | dec8 d =>
    obtain ⟨v, hf, -⟩ := stepRun_of_running h
    rw [termRun, hf]
    exact ⟨trivial, rfl, trivial, rfl⟩
  | nop | jpHL | di => exact obeysRow_unchanged rfl
  | inc16 p | dec16 p | ld16 p _ => exact obeysRow_unchanged (State.setPair_f s p _)
  | jp cc nn => exact obeysRow_unchanged (by rw [termRun, jumpAbs_eq])
  | jr cc e => exact obeysRow_unchanged (by rw [termRun, jumpRel_eq])
  | ld8 d x => exact obeysRow_unchanged (load8_frame d x s).1

/-! ### The data registers -/

@[simp] theorem State.reg_advance (s : State) (n : Word) (r : Reg8) : (s.advance n).reg r = s.reg r := by
  cases r <;> rfl

@[simp] theorem State.reg_fail (s : State) (x : Fault) (r : Reg8) : (s.fail x).reg r = s.reg r := by
  cases r <;> rfl

@[simp] theorem State.reg_writeByte (s : State) (a : Word) (v : Byte) (r : Reg8) :
    (s.writeByte a v).reg r = s.reg r := by
  cases r <;> rfl

theorem State.reg_setAcc {r : Reg8} (h : r ∉ [Reg8.a]) (s : State) (out : Byte × Flags) :
    (s.setAcc out).reg r = s.reg r := by
  cases r with
  | a => simp at h
  | _ => rfl

/-- A pair write reaches the registers of the pair alone (R22). -/
theorem State.reg_setPair {p : Reg16} {r : Reg8} (h : r ∉ Spec.pairRegs p) (s : State) (v : Word) :
    (s.setPair p v).reg r = s.reg r :=
  State.setPair_reg_other s p r v (by
    cases p with
    | sp => trivial
    | bc | de | hl => simpa [Spec.pairRegs] using h)

theorem reg_post {m : Mem8} {r : Reg8} (h : r ∉ Spec.movedRegs m) (s : State) : (post m s).reg r = s.reg r := by
  cases m with
  | hlInc | hlDec => exact State.reg_setPair (p := .hl) h s _
  | bc | de | hl | highC | abs _ => rfl

/-- A well-formed byte load writes its destination register, and HL where its operand post-modifies it. -/
theorem reg_load8 {d : Dst8} {x : Src8} {r : Reg8} (hwf : ld8PairWf d x = true) (h : r ∉ Spec.writtenRegs (.ld8 d x))
    (s : State) : (load8 d x s).reg r = s.reg r := by
  cases d with
  | mem m =>
    cases x with
    | reg _ | imm _ => rw [load8, postSrc, postDst, writeDst, reg_post h, State.reg_writeByte]
    | mem _ => cases m <;> cases hwf
  | reg q =>
    cases x with
    | reg _ | imm _ =>
      rw [load8, postSrc, postDst, writeDst, State.reg_setReg, if_neg (List.ne_of_not_mem_cons h)]
    | mem m =>
      rw [load8, postSrc, postDst, writeDst, reg_post (List.not_mem_of_not_mem_cons h), State.reg_setReg,
        if_neg (List.ne_of_not_mem_cons h)]

theorem reg_stepRun {g : Byte → Flags → Byte × Flags} {d : Dst8} {r : Reg8} (h : d ≠ .reg r) (s : State) :
    (stepRun g d s).reg r = s.reg r := by
  obtain ⟨x, hx⟩ | ⟨v, -, -, -, kept⟩ := stepRun_cases g d s
  · rw [hx, State.reg_fail]
  · exact kept r h

/-- The registers outside `Spec.writtenRegs` keep their values (R37). -/
theorem reg_termRun {t : Term} {r : Reg8} (hwf : t.wf = true) (h : r ∉ Spec.writtenRegs t) (s : State) :
    (termRun t s).reg r = s.reg r := by
  cases t with
  | nop => exact State.reg_advance s 1 r
  | add _ | adc _ | or _ | xor _ | rla | rra => exact (State.reg_advance _ _ r).trans (State.reg_setAcc h s _)
  | cp _ | jpHL | di => cases r <;> rfl
  | inc8 d | dec8 d =>
    refine reg_stepRun (fun hd => ?_) s
    subst hd
    simp [Spec.writtenRegs] at h
  | inc16 p | dec16 p | ld16 p _ => exact (State.reg_advance _ _ r).trans (State.reg_setPair h s _)
  | jp cc nn => rw [termRun, jumpAbs_eq]; cases r <;> rfl
  | jr cc e => rw [termRun, jumpRel_eq]; cases r <;> rfl
  | ld8 d x => exact (State.reg_advance _ _ r).trans (reg_load8 hwf h s)

/-! ### PC -/

theorem encodeAlu_length (y : BitVec 3) {x : Src8} (h : x.aluWf = true) :
    BitVec.ofNat 16 (encodeAlu y x).length = srcLength x := by
  cases x with
  | reg _ | imm _ => rfl
  | mem m =>
    cases m with
    | hl => rfl
    | bc | de | hlInc | hlDec | highC | abs _ => cases h

theorem encodeStep_length (z : BitVec 3) {d : Dst8} (h : d.stepWf = true) : (encodeStep z d).length = 1 := by
  cases d with
  | reg _ => rfl
  | mem m =>
    cases m with
    | hl => rfl
    | bc | de | hlInc | hlDec | highC | abs _ => cases h

/-- Only A is loaded from a memory operand other than (HL). -/
theorem eq_a_of_ld8PairWf_load {r : Reg8} {m : Mem8} (h : ld8PairWf (.reg r) (.mem m) = true) :
    m = .hl ∨ r = .a := by
  cases m with
  | hl => exact .inl rfl
  | bc | de | hlInc | hlDec | highC | abs _ => exact .inr (eq_of_beq h)

/-- Only A is stored to a memory operand other than (HL). -/
theorem eq_a_of_ld8PairWf_store {r : Reg8} {m : Mem8} (h : ld8PairWf (.mem m) (.reg r) = true) :
    m = .hl ∨ r = .a := by
  cases m with
  | hl => exact .inl rfl
  | bc | de | hlInc | hlDec | highC | abs _ => exact .inr (eq_of_beq h)

theorem encodeLd8_length {d : Dst8} {x : Src8} (h : ld8PairWf d x = true) :
    BitVec.ofNat 16 (encodeLd8 d x).length = loadLength d x := by
  cases d with
  | reg r =>
    cases x with
    | reg _ | imm _ => rfl
    | mem m =>
      obtain rfl | rfl := eq_a_of_ld8PairWf_load h
      · rfl
      · cases m <;> rfl
  | mem m =>
    cases x with
    | reg r =>
      obtain rfl | rfl := eq_a_of_ld8PairWf_store h
      · rfl
      · cases m <;> rfl
    | imm n =>
      cases m with
      | hl => rfl
      | bc | de | hlInc | hlDec | highC | abs _ => cases h
    | mem _ => cases m <;> cases h

/-- A well-formed instruction that succeeds and is no jump moves PC past its bytes (R29, R91). -/
theorem pc_termRun {i : Instr} {t : Term} {s : State} (hi : i.reading = .term t) (hjump : Spec.isJump i = false)
    (h : (termRun t s).status = .running) : (termRun t s).pc = s.pc + BitVec.ofNat 16 t.encode.length := by
  have hwf : t.wf = true := wf_of_reading i t hi
  cases t with
  | nop | rla | rra | di => rfl
  | add _ | adc _ | cp _ | or _ | xor _ => rw [Term.encode, encodeAlu_length _ hwf]; rfl
  | inc8 d | dec8 d =>
    obtain ⟨-, -, hpc⟩ := stepRun_of_running h
    rw [Term.encode, encodeStep_length _ hwf]
    exact hpc
  | inc16 p | dec16 p | ld16 p _ => exact congrArg (· + _) (State.setPair_pc s p _)
  | ld8 d x =>
    obtain ⟨-, hpc, -⟩ := load8_frame d x s
    rw [Term.encode, encodeLd8_length hwf, termRun, State.advance_pc, hpc]
  | jp _ _ | jpHL | jr _ _ => simp [Spec.isJump, hi] at hjump

end Sys2Proof.Machine

namespace Sys2Proof

/-- Settles O15: the instruction runs its term, which obeys its row. -/
theorem flagsChangeAsTheTableSays : Obligations.FlagsChangeAsTheTableSays := by
  intro i u s t hi h hrun
  rw [exec_eq_next_iff, hi] at h
  subst h
  exact termRun_obeysRow u s hrun

/-- Settles O16: data registers by `reg_termRun`, SP by `spAfter`. -/
theorem registersOutsideTheDestinationAreUnchanged : Obligations.RegistersOutsideTheDestinationAreUnchanged := by
  intro i s t h
  obtain rfl := (exec_eq_next_iff i s t).mp h
  refine ⟨fun r hr => ?_, fun hld hinc hdec => ?_⟩
  · cases hi : i.reading with
    | term u =>
      rw [Spec.instrRegs, hi] at hr
      exact reg_termRun (wf_of_reading i u hi) hr s
    | illegal _ | unimplemented _ => exact State.reg_fail s _ r
  · rw [readingRun_sp, spAfter_reading i _ hld hinc hdec]

/-- Settles O17: a failing instruction takes a failure and nothing else; a successful one runs its term. -/
theorem pcAdvancesByTheLength : Obligations.PcAdvancesByTheLength := by
  intro i s t _ hs h
  obtain rfl := (exec_eq_next_iff i s t).mp h
  refine ⟨fun hfail => ?_, fun hrun hjump => ?_⟩
  · obtain kept | ⟨x, hx⟩ := readingRun_status_cases i.reading s
    · exact absurd (kept.trans hs) hfail
    · rw [hx, State.fail_pc]
  · cases hi : i.reading with
    | term u =>
      rw [hi] at hrun
      rw [encode, hi]
      exact pc_termRun hi hjump hrun
    | illegal _ | unimplemented _ =>
      rw [hi] at hrun
      cases hrun

end Sys2Proof
end

section
/-! SUPPORT. The cell of an address (R51): an address below the Echo, in OAM or in HRAM is the home of its own cell, an
Echo address shares the cell of its home `Spec.home`, and the addresses of `Spec.unbacked` have none. What a write does
to every read follows from `Spec.accepts` and the home alone (R63). -/

open Sys2Proof Sys2Proof.Machine

namespace Sys2Proof.Machine

theorem unbacked_iff (a : Word) : Spec.unbacked a = true ↔ 0xFEA0 ≤ a.toNat ∧ a.toNat ≤ 0xFF7F := by
  simp [Spec.unbacked]

/-- The home as a number: 0x2000 below an Echo address, else the address (R56). -/
theorem toNat_home (a : Word) :
    (Spec.home a).toNat = if 0xE000 ≤ a.toNat ∧ a.toNat ≤ 0xFDFF then a.toNat - 0x2000 else a.toNat := by
  unfold Spec.home
  split_ifs
  · bv_omega
  · rfl

/-- Taking the home neither gains nor loses a cell. -/
theorem unbacked_home (a : Word) : Spec.unbacked (Spec.home a) = Spec.unbacked a := by
  rw [Bool.eq_iff_iff, unbacked_iff, unbacked_iff, toNat_home]
  split_ifs <;> omega

/-- The cell of an address depends on its home alone: there is none where the home is unbacked, and else the home is its
key (R51, R56). -/
theorem cellOf_eq_home (a : Word) :
    cellOf a = if Spec.unbacked (Spec.home a) = true then none else some (Spec.home a).toNat := by
  simp only [unbacked_home, unbacked_iff, toNat_home, cellOf_eq]
  split_ifs <;> grind

theorem cellOf_isSome_iff (a : Word) : (cellOf a).isSome = true ↔ Spec.unbacked a = false := by
  rw [cellOf_eq_home, unbacked_home]
  split_ifs <;> simp_all

/-- A backed address shares its cell with the addresses of its home. -/
theorem cellOf_eq_cellOf_iff {a : Word} (ha : Spec.unbacked a = false) (b : Word) :
    cellOf b = cellOf a ↔ Spec.home b = Spec.home a := by
  refine ⟨fun h => ?_, fun h => by rw [cellOf_eq_home, h, ← cellOf_eq_home]⟩
  rw [cellOf_eq_home a, unbacked_home, if_neg (by simp [ha]), cellOf_eq_home b] at h
  split_ifs at h
  exact BitVec.eq_of_toNat_eq (Option.some.inj h)

/-- Addresses of one home read the same byte. -/
theorem State.readByte_eq_of_home_eq (s : State) {a b : Word} (h : Spec.home b = Spec.home a) :
    s.readByte b = s.readByte a := by
  simp only [State.readByte, Memory.readByte, cellOf_eq_home, h]

theorem accepts_iff (p : RomWrites) (a : Word) :
    Spec.accepts p a = true ↔ Spec.unbacked a = false ∧ ¬(a.toNat < 0x8000 ∧ p = .discard) := by
  cases p <;> simp [Spec.accepts]

/-- What every address reads as after a write, by homes (R61, R63). -/
theorem Memory.readByte_writeByte_home (p : RomWrites) (m : Memory) (a b : Word) (v : Byte) :
    Memory.readByte (Memory.writeByte p m a v) b =
      if Spec.accepts p a = true ∧ Spec.home b = Spec.home a then v else Memory.readByte m b := by
  rw [Memory.readByte_writeByte]
  refine if_congr ?_ rfl rfl
  rw [accepts_iff, cellOf_isSome_iff, and_assoc, and_comm (b := Spec.home b = _)]
  exact and_congr_right fun ha => and_congr_left fun _ => cellOf_eq_cellOf_iff ha b

theorem State.readByte_writeByte_home (s : State) (a b : Word) (v : Byte) :
    (s.writeByte a v).readByte b =
      if Spec.accepts Config.romWrites a = true ∧ Spec.home b = Spec.home a then v else s.readByte b :=
  Memory.readByte_writeByte_home _ _ _ _ _

/-- Every policy accepts a write to a backed address outside ROM. -/
theorem accepts_of_ram (p : RomWrites) {a : Word} (hrom : 0x8000 ≤ a.toNat) (ha : Spec.unbacked a = false) :
    Spec.accepts p a = true :=
  (accepts_iff p a).mpr ⟨ha, fun h => absurd h.1 (by omega)⟩

/-- A byte written outside ROM is read back wherever the cell is shared. -/
theorem State.readByte_writeByte_ram (s : State) {a b : Word} (v : Byte) (hrom : 0x8000 ≤ a.toNat)
    (ha : Spec.unbacked a = false) (h : Spec.home b = Spec.home a) : (s.writeByte a v).readByte b = v := by
  rw [State.readByte_writeByte_home, if_pos ⟨accepts_of_ram _ hrom ha, h⟩]

/-- A write leaves what does not share its cell. -/
theorem State.readByte_writeByte_other (s : State) {a b : Word} (v : Byte) (h : Spec.home b ≠ Spec.home a) :
    (s.writeByte a v).readByte b = s.readByte b := by
  rw [State.readByte_writeByte_home, if_neg fun shared => h shared.2]

/-! ### The Echo -/

theorem toNat_echo {a : Word} (hlo : 0xC000 ≤ a.toNat) (hhi : a.toNat ≤ 0xDDFF) :
    (a + 0x2000).toNat = a.toNat + 0x2000 := by
  bv_omega

/-- The echo of a WRAM address shares its cell (R56). -/
theorem home_echo {a : Word} (hlo : 0xC000 ≤ a.toNat) (hhi : a.toNat ≤ 0xDDFF) :
    Spec.home (a + 0x2000) = Spec.home a := by
  apply BitVec.eq_of_toNat_eq
  rw [toNat_home, toNat_home, toNat_echo hlo hhi]
  split_ifs <;> omega

/-- The last 0x200 bytes of WRAM have no echo (R56). -/
theorem home_eq_home_iff_of_unmirrored {a : Word} (hlo : 0xDE00 ≤ a.toNat) (hhi : a.toNat ≤ 0xDFFF) (b : Word) :
    Spec.home b = Spec.home a ↔ b = a := by
  rw [← BitVec.toNat_inj, ← BitVec.toNat_inj, toNat_home, toNat_home]
  have := b.isLt
  split_ifs <;> omega

/-! ### The addresses without a cell -/

theorem cellOf_of_unbacked {a : Word} (ha : Spec.unbacked a = true) : cellOf a = none := by
  rw [cellOf_eq_home, unbacked_home, if_pos ha]

theorem State.readByte_of_unbacked (s : State) {a : Word} (ha : Spec.unbacked a = true) : s.readByte a = 0x00 := by
  rw [State.readByte, Memory.readByte, cellOf_of_unbacked ha]

theorem State.writeByte_of_unbacked (s : State) {a : Word} (v : Byte) (ha : Spec.unbacked a = true) :
    s.writeByte a v = s := by
  rw [State.writeByte, Memory.writeByte_eq, cellOf_of_unbacked ha]

end Sys2Proof.Machine

namespace Sys2Proof

/-- Settles O18: an offset within a range lies past the earlier ranges' ends and not past its own. -/
theorem addressMapGivesTheRegions : Obligations.AddressMapGivesTheRegions := by
  refine ⟨?_, ?_, ?_, ?_, ?_, ?_, ?_, ?_, ?_⟩
  all_goals
    intro i hi
    simp (disch := omega) only [region, BitVec.toNat_ofNat, Nat.reducePow, Nat.mod_eq_of_lt, if_pos, if_neg,
      Nat.add_sub_cancel_left]

/-- Settles O19, by homes. -/
theorem writeByteChangesTheCellItReaches : Obligations.WriteByteChangesTheCellItReaches :=
  ⟨Memory.readByte_writeByte_home, fun _ _ _ => rfl⟩

/-- Settles O20: a WRAM address and its echo have one home; the last 0x200 bytes of WRAM are alone at theirs. -/
theorem echoSharesWramCells : Obligations.EchoSharesWramCells := by
  refine fun s a v => ⟨fun hlo hhi => ?_, fun hlo hhi b hb => ?_⟩
  · have shared := home_echo hlo hhi
    have echo := toNat_echo hlo hhi
    have backed : Spec.unbacked a = false := Bool.eq_false_iff.mpr fun h => by
      rw [unbacked_iff] at h; omega
    have echoBacked : Spec.unbacked (a + 0x2000) = false := by
      rw [← unbacked_home, shared, unbacked_home, backed]
    exact ⟨s.readByte_eq_of_home_eq shared,
      s.readByte_writeByte_ram v (by omega) backed shared,
      s.readByte_writeByte_ram v (by omega) echoBacked shared.symm⟩
  · exact s.readByte_writeByte_other v fun h => hb ((home_eq_home_iff_of_unmirrored hlo hhi b).mp h)

/-- Settles O21: the range is `Spec.unbacked`, and the addresses outside it have a cell. -/
theorem unbackedAddressesReadZero : Obligations.UnbackedAddressesReadZero := by
  intro s a v
  split
  · next h =>
    have ha := (unbacked_iff a).mpr h
    exact ⟨s.readByte_of_unbacked ha, s.writeByte_of_unbacked v ha, cellOf_of_unbacked ha⟩
  · next h => exact (cellOf_isSome_iff a).mpr (Bool.eq_false_iff.mpr fun ha => h ((unbacked_iff a).mp ha))

/-- Settles O22: the word joins the two bytes, and `a + 1` is the sum modulo 2^16. -/
theorem readWordIsLittleEndian : Obligations.ReadWordIsLittleEndian := by
  intro s a
  have next : a + 1 = BitVec.ofNat 16 ((a.toNat + 1) % 65536) := by
    apply BitVec.eq_of_toNat_eq
    simp
  rw [← next, State.readWord, Memory.readWord, toNat_wordOf, State.readByte, State.readByte]
  omega

end Sys2Proof
end

section
/-! SUPPORT. What an instruction does to memory: one `write_byte` at its store address, or nothing (R69, R70). That
every other byte is kept, and that the canonical form is, follow from it. -/

open Sys2Proof Sys2Proof.Machine

namespace Sys2Proof.Machine

/-- The byte in memory of a well-formed INC or DEC is the one at HL (R94). -/
theorem eq_hl_of_stepWf {m : Mem8} (h : Dst8.stepWf (.mem m) = true) : m = .hl := by
  cases m with
  | hl => rfl
  | bc | de | hlInc | hlDec | highC | abs _ => cases h

/-- INC (HL) and DEC (HL) write the byte at HL, or nothing. -/
theorem stepMemHL_mem_cases (g : Byte → Flags → Byte × Flags) (s : State) :
    (stepMemHL g s).mem = s.mem ∨ ∃ v, (stepMemHL g s).mem = (s.writeByte (s.pair .hl) v).mem := by
  obtain ⟨-, h⟩ | ⟨-, h⟩ := stepMemHL_cases g s
  · exact .inl (by rw [h, State.fail_mem])
  · exact .inr ⟨_, by rw [h]⟩

/-- A term changes memory by one write at its store operand's address, or not at all. -/
theorem termRun_mem_cases {t : Term} (hwf : t.wf = true) (s : State) :
    (termRun t s).mem = s.mem ∨
      ∃ m v, t.storeOperand = some m ∧ (termRun t s).mem = (s.writeByte (ea m s) v).mem := by
  cases t with
  | ld8 d x =>
    rw [termRun, State.advance_mem, load8_mem]
    cases d with
    | reg r => exact .inl rfl
    | mem m => exact .inr ⟨m, _, rfl, rfl⟩
  | inc8 d | dec8 d =>
    cases d with
    | reg r => exact .inl (State.setReg_mem s r _)
    | mem m =>
      obtain rfl := eq_hl_of_stepWf hwf
      exact (stepMemHL_mem_cases _ s).imp_right fun ⟨v, h⟩ => ⟨.hl, v, rfl, h⟩
  | inc16 p | dec16 p | ld16 p _ => exact .inl (State.setPair_mem s p _)
  | jp cc nn => exact .inl (by rw [termRun, jumpAbs_eq])
  | jr cc e => exact .inl (by rw [termRun, jumpRel_eq])
  | nop | add _ | adc _ | cp _ | or _ | xor _ | jpHL | rla | rra | di => exact .inl rfl

/-- An instruction changes memory by one write at its store address, or not at all. -/
theorem readingRun_mem_cases (i : Instr) (s : State) :
    (readingRun i.reading s).mem = s.mem ∨
      ∃ a v, storeAddr i s = some a ∧ (readingRun i.reading s).mem = (s.writeByte a v).mem := by
  cases hi : i.reading with
  | illegal op | unimplemented op => exact .inl rfl
  | term t =>
    obtain h | ⟨m, v, hm, h⟩ := termRun_mem_cases (wf_of_reading i t hi) s
    · exact .inl h
    · exact .inr ⟨ea m s, v, by simp [storeAddr, hi, hm], h⟩

/-- A step answers a next state from a running state alone: that of the instruction fetched (R92, R246). -/
theorem step_eq_next_iff (s t : State) :
    step s = .next t ↔ s.status = .running ∧ readingRun s.fetch.reading s = t := by
  unfold step
  cases s.status <;> simp [exec_eq_next_iff]

/-- An instruction keeps the canonical form of memory. -/
theorem memoryCanonical_readingRun (i : Instr) {s : State} (h : MemoryCanonical s) :
    MemoryCanonical (readingRun i.reading s) := by
  unfold MemoryCanonical
  obtain kept | ⟨a, v, -, stored⟩ := readingRun_mem_cases i s
  · rw [kept]; exact h
  · rw [stored]; exact Memory.wf_writeByte _ _ a v h

end Sys2Proof.Machine

namespace Sys2Proof

/-- Settles O57: a step is one instruction's effect. -/
theorem stepKeepsMemoryCanonical : Obligations.StepKeepsMemoryCanonical := by
  intro s t hs h
  obtain ⟨-, rfl⟩ := (step_eq_next_iff s t).mp h
  exact memoryCanonical_readingRun s.fetch hs

/-- Settles O24: memory is unchanged, or changed by one write at the store address. -/
theorem storesReachOnlyTheirAddress : Obligations.StoresReachOnlyTheirAddress := by
  intro i s t b h hb
  obtain rfl := (exec_eq_next_iff i s t).mp h
  obtain kept | ⟨a, v, ha, stored⟩ := readingRun_mem_cases i s
  · exact congrArg (Memory.readByte · b) kept
  · exact (congrArg (Memory.readByte · b) stored).trans (s.readByte_writeByte_other v (hb a ha))

/-- Settles O25: the store is to the address that PC moves to, where the next step reads its opcode. -/
theorem storedCodeIsFetchedNext : Obligations.StoredCodeIsFetchedNext := by
  intro s hs hfetch hl hrom hbacked
  have hstep : step s = .next ((s.writeByte (s.pc + 1) s.a).advance 1) := by
    rw [step, hs, hfetch, ← hl]
    rfl
  refine ⟨_, hstep, s.readByte_writeByte_ram s.a hrom hbacked rfl, ?_⟩
  rw [step, State.advance_status, State.writeByte_status, hs]

end Sys2Proof
end

section
/-! SUPPORT. `load` at every address (R65), and the shape of the host's legal sessions (R272, R278). -/

open Sys2Proof Sys2Proof.Machine

namespace Sys2Proof.Machine

/-! ### Loading a program -/

/-- The array copy from index `i` on gives the ROM cells from `i` on the listed bytes, as far as they reach. -/
theorem Memory.lookup_loadFrom (bytes : List Byte) (k : Nat) :
    ∀ (i : Nat) (m : Memory), Memory.lookup (Memory.loadFrom i bytes m) k =
      if i ≤ k ∧ k < 0x8000 then bytes[k - i]?.getD (Memory.lookup m k) else Memory.lookup m k := by
  have size : Config.romSize = 0x8000 := rfl
  induction bytes with
  | nil => intro i m; simp [Memory.loadFrom]
  | cons v rest ih =>
    intro i m
    rw [Memory.loadFrom, size]
    by_cases hi : i < 0x8000
    · rw [if_pos hi, ih, Memory.lookup_store]
      obtain hk | rfl | hk := lt_trichotomy k i
      · rw [if_neg (by omega), if_neg (by omega), if_neg (by omega)]
      · rw [if_neg (by omega), if_pos rfl, if_pos ⟨le_rfl, hi⟩, Nat.sub_self]
        rfl
      · have later : k - i = k - (i + 1) + 1 := by omega
        rw [if_neg (by omega : ¬k = i), later, List.getElem?_cons_succ]
        exact if_congr (by omega) rfl rfl
    · rw [if_neg hi, if_neg (by omega)]

/-- What `load` leaves in each cell: ROM holds the program and then 0x00, the rest is kept (R65). -/
theorem lookup_load (s : State) (bytes : List Byte) (k : Nat) :
    Memory.lookup (s.load bytes).mem k =
      if k < 0x8000 then bytes[k]?.getD 0x00 else Memory.lookup s.mem k := by
  rw [State.load, Memory.lookup_loadFrom, Memory.lookup_clearRom]
  by_cases hk : k < 0x8000
  · rw [if_pos ⟨Nat.zero_le k, hk⟩, if_pos hk, if_pos hk, Nat.sub_zero, unlistedByte]
  · rw [if_neg (by omega), if_neg hk, if_neg hk]

/-- The cell of a ROM address is keyed by the address, and no other address reaches ROM. -/
theorem key_of_cellOf {a : Word} {k : Nat} (h : cellOf a = some k) :
    a.toNat < 0x8000 ∧ k = a.toNat ∨ ¬a.toNat < 0x8000 ∧ ¬k < 0x8000 := by
  rw [cellOf_eq] at h
  split_ifs at h <;> simp only [Option.some.injEq] at h <;> omega

/-- What every address reads as after `load` (R65). -/
theorem readByte_load (s : State) (bytes : List Byte) (a : Word) :
    (s.load bytes).readByte a = if a.toNat < 0x8000 then bytes[a.toNat]?.getD 0x00 else s.readByte a := by
  simp only [State.readByte, Memory.readByte]
  cases h : cellOf a with
  | none =>
    have : ¬a.toNat < 0x8000 := fun hrom => by
      rw [cellOf_eq, if_pos (by omega)] at h
      cases h
    rw [if_neg this]
  | some k =>
    obtain ⟨hrom, rfl⟩ | ⟨hram, hk⟩ := key_of_cellOf h
    · exact lookup_load s bytes _
    · simp only [lookup_load, if_neg hk, if_neg hram]

/-! ### The order of the moves -/

theorem isPoke_iff (move : HostMove) : move.isPoke = true ↔ Spec.IsPoke move := by
  cases move <;> simp [HostMove.isPoke, Spec.IsPoke]

theorem isRunMove_iff (move : HostMove) : move.isRunMove = true ↔ move = .step ∨ Spec.IsPoke move := by
  cases move <;> simp [HostMove.isRunMove, Spec.IsPoke]

/-- Between the reset and a load stand pokes only, and after the load run moves only (R272, R278). -/
theorem sessionAfterReset_append_load (pokes run : List HostMove) (bytes : List Byte) :
    sessionAfterReset (pokes ++ .load bytes :: run) = true ↔
      (∀ move ∈ pokes, Spec.IsPoke move) ∧ ∀ move ∈ run, move = .step ∨ Spec.IsPoke move := by
  induction pokes with
  | nil => simp [sessionAfterReset, isRunMove_iff]
  | cons move rest ih =>
    rw [List.forall_mem_cons, and_assoc, ← ih, ← isPoke_iff, List.cons_append]
    cases move with
    | load _ => simp [sessionAfterReset, HostMove.isPoke, HostMove.isRunMove]
    | reset _ _ | step | readByte _ | writeByte _ _ => simp [sessionAfterReset]

/-- A session with a load starts with the reset. -/
theorem sessionInOrder_append_load (early late : List HostMove) (bytes : List Byte) :
    sessionInOrder (early ++ .load bytes :: late) = true ↔
      (∃ draw io pokes, early = .reset draw io :: pokes ∧ ∀ move ∈ pokes, Spec.IsPoke move) ∧
        ∀ move ∈ late, move = .step ∨ Spec.IsPoke move := by
  cases early with
  | nil => simp [sessionInOrder]
  | cons move rest =>
    cases move with
    | reset draw io => simp [sessionInOrder, sessionAfterReset_append_load]
    | load _ | step | readByte _ | writeByte _ _ => simp [sessionInOrder]

/-- A step after the reset has a load before it. -/
theorem load_mem_of_sessionAfterReset {early late : List HostMove}
    (h : sessionAfterReset (early ++ .step :: late) = true) : ∃ bytes, HostMove.load bytes ∈ early := by
  induction early with
  | nil => simp [sessionAfterReset, HostMove.isPoke] at h
  | cons move rest ih =>
    cases move with
    | load bytes => exact ⟨bytes, List.mem_cons_self⟩
    | reset _ _ | step | readByte _ | writeByte _ _ =>
      obtain ⟨bytes, hb⟩ := ih (Bool.and_eq_true_iff.mp h).2
      exact ⟨bytes, List.mem_cons_of_mem _ hb⟩

theorem load_mem_of_sessionInOrder {early late : List HostMove}
    (h : sessionInOrder (early ++ .step :: late) = true) : ∃ bytes, HostMove.load bytes ∈ early := by
  cases early with
  | nil => simp [sessionInOrder] at h
  | cons move rest =>
    cases move with
    | reset draw io =>
      obtain ⟨bytes, hb⟩ := load_mem_of_sessionAfterReset (early := rest) h
      exact ⟨bytes, List.mem_cons_of_mem _ hb⟩
    | load _ | step | readByte _ | writeByte _ _ => simp [sessionInOrder] at h

/-! ### No step after a failure -/

/-- The host stops after a failure exactly when every step starts from a running state (R278). -/
theorem stopsAfterFailure_iff (moves : List HostMove) :
    ∀ s : State, stopsAfterFailure moves s = true ↔
      ∀ early late, moves = early ++ .step :: late → (afterMoves early s).status = .running := by
  induction moves with
  | nil => intro s; simp [stopsAfterFailure]
  | cons move rest ih =>
    intro s
    rw [stopsAfterFailure, Bool.and_eq_true, allowedIn_iff, ih]
    constructor
    · rintro ⟨hmove, hrest⟩ early late h
      cases early with
      | nil => exact hmove (List.cons.inj h).1
      | cons first early' =>
        obtain ⟨rfl, hsplit⟩ := List.cons.inj h
        exact hrest early' late hsplit
    · intro h
      exact ⟨fun hmove => h [] rest (by rw [hmove]; rfl), fun early late hrest =>
        h (move :: early) late (by rw [hrest]; rfl)⟩

/-- Moves without a step cannot step after a failure. -/
theorem stopsAfterFailure_of_no_step {moves : List HostMove} (h : HostMove.step ∉ moves) (s : State) :
    stopsAfterFailure moves s = true :=
  (stopsAfterFailure_iff moves s).mpr fun early late hm => absurd (by rw [hm]; simp) h

end Sys2Proof.Machine

namespace Sys2Proof

/-- Settles O23: `readByte_load` gives memory, the two `append_load` lemmas the order of a session, and
`stopsAfterFailure_iff` its steps. -/
theorem loadCopiesTheProgramIntoRom : Obligations.LoadCopiesTheProgramIntoRom := by
  refine ⟨fun s bytes a => ⟨readByte_load s bytes a, rfl⟩, fun early late => ⟨fun bytes h => ?_, fun h => ?_⟩,
    fun draw io pokes run bytes hpokes hrun => ?_⟩
  · exact (sessionInOrder_append_load early late bytes).mp (Bool.and_eq_true_iff.mp h).1
  · obtain ⟨horder, hstops⟩ := Bool.and_eq_true_iff.mp h
    obtain ⟨bytes, hb⟩ := load_mem_of_sessionInOrder horder
    obtain ⟨before, between, rfl⟩ := List.append_of_mem hb
    exact ⟨⟨before, bytes, between, rfl⟩, (stopsAfterFailure_iff _ _).mp hstops _ late rfl⟩
  · have horder : sessionInOrder (.reset draw io :: pokes ++ .load bytes :: run) = true :=
      (sessionInOrder_append_load _ run bytes).mpr ⟨⟨draw, io, pokes, rfl, hpokes⟩, hrun⟩
    have noStep : HostMove.step ∉ .reset draw io :: pokes ++ [.load bytes] := by
      have : ¬Spec.IsPoke .step := by simp [Spec.IsPoke]
      simpa using fun h => this (hpokes _ h)
    refine ⟨horder, ?_⟩
    rw [legalSession, horder, Bool.true_and, List.append_cons, stopsAfterFailure_append,
      stopsAfterFailure_of_no_step noStep, Bool.true_and, stopsAfterFailure_iff]
    simp only [afterMoves_append, afterMoves_cons, afterMoves_nil]

end Sys2Proof
end

section
/-! SUPPORT. The decoder read backwards: what a list of bytes that decodes holds, which opcodes are undecoded, and which
row a well-formed term stands for (30_encoding.md); and what a step returns (R93). -/

open Sys2Proof Sys2Proof.Machine

namespace Sys2Proof

/-! ### What the decoder reads -/

@[simp] theorem wordBytes_wordOf (hi lo : Byte) : wordBytes (wordOf hi lo) = [lo, hi] := by
  simp [wordBytes]

/-- An opcode of format F3 takes its two operand bytes, low byte first (R87). -/
theorem decodeBytes_of_f3 {op : Byte} {k : Word → Instr} (h : decode op = .f3 k) (nn : Word) (rest : List Byte) :
    decodeBytes (op :: wordBytes nn ++ rest) = .ok (k nn, rest) := by
  simp [decodeBytes, h, wordBytes]

/-- What is read from a list of bytes that decodes: an opcode, the operand bytes of its format, and the rest. -/
theorem decodeBytes_cases {op : Byte} {bytes rest : List Byte} {i : Instr}
    (h : decodeBytes (op :: bytes) = .ok (i, rest)) :
    (decode op = .f1 i ∧ bytes = rest) ∨
    (∃ k n, decode op = .f2 k ∧ i = k n ∧ bytes = n :: rest) ∨
    (∃ k nn, decode op = .f3 k ∧ i = k nn ∧ bytes = wordBytes nn ++ rest) ∨
    (decode op = .illegal ∧ i = .illegal op ∧ bytes = rest) ∨
    (decode op = .unimplemented ∧ i = .unimplemented op ∧ bytes = rest) := by
  unfold decodeBytes at h
  cases hop : decode op with
  | f1 j => simp_all
  | f2 k =>
    cases bytes with
    | nil => simp [hop] at h
    | cons n bytes => simp_all
  | f3 k =>
    match bytes with
    | [] => simp [hop] at h
    | [_] => simp [hop] at h
    | lo :: hi :: bytes =>
      simp only [hop, Except.ok.injEq, Prod.mk.injEq] at h
      obtain ⟨rfl, rfl⟩ := h
      exact .inr (.inr (.inl ⟨k, wordOf hi lo, rfl, rfl, by simp⟩))
  | illegal | unimplemented => simp_all

/-! ### The undecoded opcodes -/

theorem matches_illegal_iff (e : Entry) : (e matches .illegal) = true ↔ e = .illegal := by
  cases e <;> simp

theorem matches_unimplemented_iff (e : Entry) : (e matches .unimplemented) = true ↔ e = .unimplemented := by
  cases e <;> simp

/-- The reserved opcodes are those of R89: the map has no other, and has each of them. -/
theorem decode_eq_illegal_iff (op : Byte) : decode op = .illegal ↔ illegalOpcodes.contains op = true := by
  have listed : ∀ op ∈ illegalOpcodes, (decode op matches .illegal) = true := by decide
  refine ⟨fun h => ?_, fun h => (matches_illegal_iff _).mp (listed op (List.contains_iff_mem.mp h))⟩
  have encodes := decode_encodes op
  rwa [h] at encodes

/-- The unimplemented opcodes are those of R90: the map has no other, and has each of them. -/
theorem decode_eq_unimplemented_iff (op : Byte) :
    decode op = .unimplemented ↔ unimplementedOpcodes.contains op = true := by
  have listed : ∀ op ∈ unimplementedOpcodes, (decode op matches .unimplemented) = true := by decide
  refine ⟨fun h => ?_, fun h => (matches_unimplemented_iff _).mp (listed op (List.contains_iff_mem.mp h))⟩
  have encodes := decode_encodes op
  rwa [h] at encodes

/-! ### The term of every row -/

/-- The row at the opcode byte of a term's encoding, with operands `n` and `nn`. -/
def Term.row (t : Term) (n : Byte) (nn : Word) : Instr :=
  (decode (t.encode.headD 0x00)).instr (t.encode.headD 0x00) n nn

/-- An accumulator operation reads its operand from a register, an immediate or (HL) (R94). -/
theorem aluWf_cases {x : Src8} (h : x.aluWf = true) : (∃ r, x = .reg r) ∨ (∃ n, x = .imm n) ∨ x = .mem .hl := by
  cases x with
  | reg r => exact .inl ⟨r, rfl⟩
  | imm n => exact .inr (.inl ⟨n, rfl⟩)
  | mem m =>
    cases m with
    | hl => exact .inr (.inr rfl)
    | bc | de | hlInc | hlDec | highC | abs _ => cases h

theorem row_ld8_reading {d : Dst8} {x : Src8} (h : ld8PairWf d x = true) :
    ∃ n nn, ((Term.ld8 d x).row n nn).reading = .term (.ld8 d x) := by
  cases d with
  | reg r =>
    cases x with
    | reg q => exact ⟨0, 0, by cases r <;> cases q <;> rfl⟩
    | imm n => exact ⟨n, 0, by cases r <;> rfl⟩
    | mem m =>
      obtain rfl | rfl := eq_a_of_ld8PairWf_load h
      · exact ⟨0, 0, by cases r <;> rfl⟩
      · cases m with
        | abs nn => exact ⟨0, nn, rfl⟩
        | bc | de | hl | hlInc | hlDec | highC => exact ⟨0, 0, rfl⟩
  | mem m =>
    cases x with
    | reg r =>
      obtain rfl | rfl := eq_a_of_ld8PairWf_store h
      · exact ⟨0, 0, by cases r <;> rfl⟩
      · cases m with
        | abs nn => exact ⟨0, nn, rfl⟩
        | bc | de | hl | hlInc | hlDec | highC => exact ⟨0, 0, rfl⟩
    | imm n =>
      cases m with
      | hl => exact ⟨n, 0, rfl⟩
      | bc | de | hlInc | hlDec | highC | abs _ => cases h
    | mem _ => cases m <;> cases h

/-- The row of a well-formed term reads as the term, with the operands that the term carries. -/
theorem exists_row_reading {t : Term} (h : t.wf = true) : ∃ n nn, (t.row n nn).reading = .term t := by
  cases t with
  | nop | jpHL | rla | rra | di => exact ⟨0, 0, rfl⟩
  | add x | adc x | cp x | or x | xor x =>
    obtain ⟨r, rfl⟩ | ⟨n, rfl⟩ | rfl := aluWf_cases h
    · exact ⟨0, 0, by cases r <;> rfl⟩
    · exact ⟨n, 0, rfl⟩
    · exact ⟨0, 0, rfl⟩
  | inc8 d | dec8 d =>
    cases d with
    | reg r => exact ⟨0, 0, by cases r <;> rfl⟩
    | mem m => exact eq_hl_of_stepWf h ▸ ⟨0, 0, rfl⟩
  | inc16 p | dec16 p => exact ⟨0, 0, by cases p <;> rfl⟩
  | ld16 p nn => exact ⟨0, nn, by cases p <;> rfl⟩
  | jp cc nn =>
    cases cc with
    | none => exact ⟨0, nn, rfl⟩
    | some cc => exact ⟨0, nn, by cases cc <;> rfl⟩
  | jr cc e =>
    cases cc with
    | none => exact ⟨e, 0, rfl⟩
    | some cc => exact ⟨e, 0, by cases cc <;> rfl⟩
  | ld8 d x => exact row_ld8_reading h

/-- Settles O1: an opcode byte without operands or with one reads back by computation, a word operand by
`decodeBytes_of_f3`, an undecoded opcode by its class. -/
theorem decodeOfEncodeIsIdentity : Obligations.DecodeOfEncodeIsIdentity := by
  intro i rest hwf
  cases i with
  | illegal op =>
    have hop := (decode_eq_illegal_iff op).mpr hwf
    simp [encode, Instr.reading, Reading.encode, decodeBytes, hop]
  | unimplemented op =>
    have hop := (decode_eq_unimplemented_iff op).mpr hwf
    simp [encode, Instr.reading, Reading.encode, decodeBytes, hop]
  | ldBCImm nn | ldDEImm nn | ldHLImm nn | ldSPImm nn | jpNZImm nn | jpImm nn | jpZImm nn | jpNCImm nn
  | jpCImm nn | ldMemAbsA nn | ldAMemAbs nn => exact decodeBytes_of_f3 rfl nn rest
  | _ => rfl

/-- Settles O2: the entry of the opcode encodes what was read. -/
theorem encodeOfDecodeIsIdentity : Obligations.EncodeOfDecodeIsIdentity := by
  intro bytes i rest h
  cases bytes with
  | nil => cases h
  | cons op bytes =>
    have encodes := decode_encodes op
    obtain ⟨hop, rfl⟩ | ⟨k, n, hop, rfl, rfl⟩ | ⟨k, nn, hop, rfl, rfl⟩ | ⟨hop, rfl, rfl⟩ | ⟨hop, rfl, rfl⟩ :=
      decodeBytes_cases h
    all_goals rw [hop] at encodes
    · obtain ⟨hwf, he⟩ := encodes
      exact ⟨hwf, by rw [he]; rfl⟩
    · obtain ⟨hwf, he⟩ := encodes n
      exact ⟨hwf, by rw [he]; rfl⟩
    · obtain ⟨hwf, he⟩ := encodes nn
      exact ⟨hwf, by rw [he]; rfl⟩
    · exact ⟨encodes, rfl⟩
    · exact ⟨encodes, rfl⟩

/-- Settles O5: what was read is the encoding (O2), which leaves the opcode and the operand bytes of its format. -/
theorem lengthIsFixedByOpcode : Obligations.LengthIsFixedByOpcode := by
  intro op bytes i rest h
  obtain ⟨-, hread⟩ := encodeOfDecodeIsIdentity _ i rest h
  refine ⟨by simpa using (congrArg List.length hread).symm, ?_⟩
  obtain ⟨hop, rfl⟩ | ⟨k, n, hop, rfl, rfl⟩ | ⟨k, nn, hop, rfl, rfl⟩ | ⟨hop, rfl, rfl⟩ | ⟨hop, rfl, rfl⟩ :=
    decodeBytes_cases h
  all_goals rw [hop]
  · have : encode i = [op] := List.append_cancel_right hread
    simp [Entry.length, this]
  · have : encode (k n) = [op, n] := List.append_cancel_right hread
    simp [Entry.length, this]
  · have : encode (k nn) = op :: wordBytes nn := List.append_cancel_right hread
    simp [Entry.length, this, wordBytes]
  · exact ⟨rfl, rfl⟩
  · exact ⟨rfl, rfl⟩

/-- Settles O6: a well-formed term has the row of its opcode, and two rows of one term have one encoding, which decodes
to both (O1). -/
theorem wellFormedTermsAreTheTableRows : Obligations.WellFormedTermsAreTheTableRows := by
  intro t
  refine ⟨⟨fun h => ?_, fun ⟨i, hi⟩ => wf_of_reading i t hi⟩, fun i j hi hj => ?_⟩
  · obtain ⟨n, nn, hrow⟩ := exists_row_reading h
    exact ⟨_, hrow⟩
  · have decoded {k : Instr} (hk : k.reading = .term t) : decodeBytes (t.encode ++ []) = .ok (k, []) := by
      have hwf : k.wf = true := by rw [Instr.wf, hk]; exact wf_of_reading k t hk
      have identity := decodeOfEncodeIsIdentity k [] hwf
      rwa [encode, hk] at identity
    simpa using (decoded hi).symm.trans (decoded hj)

/-- Settles O3: the two classes of the decoder are the lists of R89 and R90, compared byte by byte. -/
theorem opcodesDecodeByClass : Obligations.OpcodesDecodeByClass := by
  intro op
  constructor
  · refine (Bool.eq_iff_iff.mpr ((matches_illegal_iff _).trans (decode_eq_illegal_iff op))).trans ?_
    revert op
    decide
  · refine (Bool.eq_iff_iff.mpr ((matches_unimplemented_iff _).trans (decode_eq_unimplemented_iff op))).trans ?_
    revert op
    decide

end Sys2Proof

namespace Sys2Proof.Machine

/-- The three bytes at PC decode to the instruction fetched (R92). -/
theorem decodeBytes_at_pc (s : State) :
    ∃ rest, decodeBytes [s.readByte s.pc, s.readByte (s.pc + 1), s.readByte (s.pc + 2)] = .ok (s.fetch, rest) := by
  have hword : s.readWord (s.pc + 1) = wordOf (s.readByte (s.pc + 2)) (s.readByte (s.pc + 1)) := by
    rw [show s.pc + 2 = s.pc + 1 + 1 by rw [BitVec.add_assoc]; rfl]
    rfl
  rw [State.fetch, hword]
  exact decodeBytes_three _ _ _

/-- A step that leaves a running state returns the cost of its instruction (R93). -/
theorem stepResult_of_running {s t : State} (h : step s = .next t) (ht : t.status = .running) :
    stepResult s = (cycles s.fetch s.f).map .ok := by
  obtain ⟨hs, hrun⟩ := (step_eq_next_iff s t).mp h
  simp only [stepResult, hs, execResult, (exec_eq_next_iff _ _ _).mpr hrun, ht]

/-- A step that leaves a failed state returns the failure (R93). -/
theorem stepResult_of_failed {s t : State} {f : Fault} (h : step s = .next t) (ht : t.status = .failed f) :
    stepResult s = some (.failure f) := by
  obtain ⟨hs, hrun⟩ := (step_eq_next_iff s t).mp h
  simp only [stepResult, hs, execResult, (exec_eq_next_iff _ _ _).mpr hrun, ht]

/-- An instruction that succeeds from a running state has a cost (R276). -/
theorem exists_cycles_of_running {i : Instr} {s : State} (f : Flags)
    (h : (readingRun i.reading s).status = .running) : ∃ c, cycles i f = some c := by
  unfold cycles
  cases hi : i.reading with
  | term t => exact ⟨termCost f t, rfl⟩
  | illegal op | unimplemented op => rw [hi] at h; cases h

end Sys2Proof.Machine

namespace Sys2Proof

/-- Settles O7: the bytes at PC decode to the instruction fetched, which is the one that a step executes. -/
theorem stepRunsDecodedInstruction : Obligations.StepRunsDecodedInstruction := by
  intro s i rest hs _ h
  obtain ⟨rest', hfetch⟩ := decodeBytes_at_pc s
  obtain ⟨rfl, -⟩ := Prod.mk.inj (Except.ok.inj (hfetch.symm.trans h))
  rw [step, hs]

/-- Settles O9: a step that leaves a running state has executed a term, and every term has a cost. -/
theorem stepReturnsCyclesOrTheFailure : Obligations.StepReturnsCyclesOrTheFailure := by
  intro s t _ h
  refine ⟨fun hrun => ?_, fun f hfail => stepResult_of_failed h hfail⟩
  obtain ⟨-, ht⟩ := (step_eq_next_iff s t).mp h
  obtain ⟨c, hc⟩ := exists_cycles_of_running s.f (ht ▸ hrun)
  exact ⟨c, hc, by rw [stepResult_of_running h hrun, hc, Option.map_some]⟩

end Sys2Proof
end

section
/-! SUPPORT. NOP and the 8-bit ALU (40_nop_alu8.md). The five accumulator operations have one shape: an `AluFamily` says
what each shares with the others, and `AluFamily.runs` gives encoding, cost and next state for every operand. -/

open Sys2Proof Sys2Proof.Machine

namespace Sys2Proof.Machine

/-! ### The flag computations over exact numbers -/

theorem beq_zero_eq_decide (v : Byte) : (v == 0) = decide (v.toNat = 0) := by
  rw [Bool.eq_iff_iff, beq_iff_eq, decide_eq_true_iff, ← BitVec.toNat_inj]
  rfl

theorem low_eq_nibble (v : Byte) : Spec.low v = nibble v := (nibble_eq_and v).symm

theorem carry_eq_toNat (cin : Bool) : (if cin then 1 else 0) = cin.toNat := by
  cases cin <;> rfl

/-- Narrowing a number to a byte takes it modulo 256 (R3). -/
theorem ofNat_mod_256 (n : Nat) : BitVec.ofNat 8 (n % 256) = BitVec.ofNat 8 n :=
  BitVec.eq_of_toNat_eq (Nat.mod_mod n 256)

/-- The flags of OR and XOR depend on the number that the result is (R112, R115). -/
theorem logicFlags_eq (v : Byte) : logicFlags v = Spec.logicFlags v.toNat := by
  rw [logicFlags, beq_zero_eq_decide, Spec.logicFlags]

/-- The difference of two bytes is 0 modulo 256 as bytes and as integers alike (R102). -/
theorem sub_toNat_eq_zero_iff (a b : Byte) : (a - b).toNat = 0 ↔ ((a.toNat : Int) - b.toNat) % 256 = 0 := by
  rw [BitVec.toNat_sub]
  have := a.isLt
  have := b.isLt
  omega

end Sys2Proof.Machine

namespace Sys2Proof

/-- Settles O27: the model narrows the exact sum, which `ofNat_mod_256` relates to its value modulo 256. -/
theorem adderComputesSumAndFlags : Obligations.AdderComputesSumAndFlags := by
  intro a b cin
  simp only [add8, Spec.addFlags, Spec.sum, beq_zero_eq_decide, low_eq_nibble, carry_eq_toNat, ofNat_mod_256,
    BitVec.toNat_ofNat, Nat.reducePow]

/-- Settles O28: the model's Z is on the wrapped difference, which `sub_toNat_eq_zero_iff` relates to the exact one. -/
theorem comparatorComputesFlags : Obligations.ComparatorComputesFlags := by
  intro a b
  simp only [cmp8, Spec.cmpFlags, beq_zero_eq_decide, low_eq_nibble, sub_toNat_eq_zero_iff]

end Sys2Proof

namespace Sys2Proof.Machine

/-! ### The next states -/

theorem addA_advance (x : Src8) (s : State) (n : Word) :
    (addA x s).advance n = Spec.added s (readSrc x s) false n := by
  rw [addA, adderComputesSumAndFlags]
  rfl

theorem adcA_advance (x : Src8) (s : State) (n : Word) :
    (adcA x s).advance n = Spec.added s (readSrc x s) s.f.c n := by
  rw [adcA, adderComputesSumAndFlags]
  rfl

theorem cpA_advance (x : Src8) (s : State) (n : Word) : (cpA x s).advance n = Spec.compared s (readSrc x s) n := by
  rw [cpA, comparatorComputesFlags]
  rfl

theorem orA_advance (x : Src8) (s : State) (n : Word) : (orA x s).advance n = Spec.ored s (readSrc x s) n := by
  rw [orA_eq, logicFlags_eq, Spec.ored, ← BitVec.toNat_or, BitVec.ofNat_toNat, BitVec.setWidth_eq]
  rfl

theorem xorA_advance (x : Src8) (s : State) (n : Word) : (xorA x s).advance n = Spec.xored s (readSrc x s) n := by
  rw [xorA_eq, logicFlags_eq, Spec.xored, ← BitVec.toNat_xor, BitVec.ofNat_toNat, BitVec.setWidth_eq]
  rfl

/-! ### The accumulator operations -/

/-- An instruction that reads as a term has the term's encoding, cost and effect. -/
theorem runs_of_reading {i : Instr} {t : Term} (hi : i.reading = .term t) (s : State) :
    Spec.Runs i t.encode (termCost s.f t) s (termRun t s) :=
  ⟨by rw [encode, hi]; rfl, by rw [cycles, hi], by rw [exec_of_reading, hi]; rfl⟩

/-- The accumulator operation `k`, with the operation code `y`, answers `after` of the state, the operand byte and the
length. -/
structure AluFamily (k : Src8 → Term) (y : BitVec 3) (after : State → Byte → Word → State) : Prop where
  encode_eq : ∀ x, (k x).encode = encodeAlu y x
  cost_eq : ∀ f x, termCost f (k x) = aluCost x
  run_eq : ∀ x s, termRun (k x) s = after s (readSrc x s) (srcLength x)
  reading_row : ∀ r, ((k (.reg r)).row 0 0).reading = .term (k (.reg r))

/-- The register rows of an accumulator operation: opcode, instruction, the register read. -/
def aluRows (k : Src8 → Term) (y : BitVec 3) : List (Byte × Instr × (State → Byte)) :=
  [Reg8.b, .c, .d, .e, .h, .l, .a].map fun r => (opXYZ 0b10 y r.code, (k (.reg r)).row 0 0, fun s => s.reg r)

section
variable {k : Src8 → Term} {y : BitVec 3} {after : State → Byte → Word → State} (fam : AluFamily k y after)
include fam

/-- R103 to R117 for one operation and every operand source. -/
theorem AluFamily.runs {i : Instr} {x : Src8} (hi : i.reading = .term (k x)) (s : State) :
    Spec.Runs i (encodeAlu y x) (aluCost x) s (after s (readSrc x s) (srcLength x)) := by
  have h := runs_of_reading hi s
  rwa [fam.encode_eq, fam.cost_eq, fam.run_eq] at h

/-- The register rows of one operation. -/
theorem AluFamily.runs_registers (s : State) :
    ∀ row ∈ aluRows k y, Spec.Runs row.2.1 [row.1] 4 s (after s (row.2.2 s) 1) := by
  intro row hrow
  obtain ⟨r, -, rfl⟩ := List.mem_map.mp hrow
  exact fam.runs (fam.reading_row r) s

end

theorem addFamily : AluFamily .add 0 fun s v len => Spec.added s v false len where
  encode_eq _ := rfl
  cost_eq _ _ := rfl
  run_eq x s := addA_advance x s _
  reading_row r := by cases r <;> rfl

theorem adcFamily : AluFamily .adc 1 fun s v len => Spec.added s v s.f.c len where
  encode_eq _ := rfl
  cost_eq _ _ := rfl
  run_eq x s := adcA_advance x s _
  reading_row r := by cases r <;> rfl

theorem cpFamily : AluFamily .cp 7 Spec.compared where
  encode_eq _ := rfl
  cost_eq _ _ := rfl
  run_eq x s := cpA_advance x s _
  reading_row r := by cases r <;> rfl

theorem orFamily : AluFamily .or 6 Spec.ored where
  encode_eq _ := rfl
  cost_eq _ _ := rfl
  run_eq x s := orA_advance x s _
  reading_row r := by cases r <;> rfl

theorem xorFamily : AluFamily .xor 5 Spec.xored where
  encode_eq _ := rfl
  cost_eq _ _ := rfl
  run_eq x s := xorA_advance x s _
  reading_row r := by cases r <;> rfl

theorem addRows_eq : Spec.addRows = aluRows .add 0 := rfl

theorem adcRows_eq : Spec.adcRows = aluRows .adc 1 := rfl

theorem cpRows_eq : Spec.cpRows = aluRows .cp 7 := rfl

theorem orRows_eq : Spec.orRows = aluRows .or 6 := rfl

theorem xorRows_eq : Spec.xorRows = aluRows .xor 5 := rfl

/-- Where PC has no cell the opcode read is 0x00 (R73). -/
theorem fetch_of_unbacked {s : State} (h : Spec.unbacked s.pc = true) : s.fetch = .nop := by
  rw [State.fetch, State.opcode, State.readByte_of_unbacked s h]
  rfl

end Sys2Proof.Machine

namespace Sys2Proof

/-- Settles O26: NOP is its term's advance, and an address without a cell reads as NOP's opcode. -/
theorem nopOnlyAdvancesPc : Obligations.NopOnlyAdvancesPc :=
  ⟨fun s => runs_of_reading (t := .nop) rfl s, fun s hlo hhi => fetch_of_unbacked ((unbacked_iff s.pc).mpr ⟨hlo, hhi⟩)⟩

/-- Settles O29: ADD is the family of the adder without a carry-in. -/
theorem addSetsAccumulatorAndFlags : Obligations.AddSetsAccumulatorAndFlags := fun s =>
  ⟨addRows_eq ▸ addFamily.runs_registers s, addFamily.runs (x := .mem .hl) rfl s,
    fun n => addFamily.runs (x := .imm n) rfl s⟩

/-- Settles O30: ADC is the family of the adder with the old carry as carry-in. -/
theorem adcSetsAccumulatorAndFlags : Obligations.AdcSetsAccumulatorAndFlags := fun s =>
  ⟨adcRows_eq ▸ adcFamily.runs_registers s, adcFamily.runs (x := .mem .hl) rfl s,
    fun n => adcFamily.runs (x := .imm n) rfl s⟩

/-- Settles O31: CP is the family of the comparator. -/
theorem cpSetsOnlyFlags : Obligations.CpSetsOnlyFlags := fun s =>
  ⟨cpRows_eq ▸ cpFamily.runs_registers s, cpFamily.runs (x := .mem .hl) rfl s,
    fun n => cpFamily.runs (x := .imm n) rfl s⟩

/-- Settles O32: OR is the family of the bitwise or. -/
theorem orSetsAccumulatorAndFlags : Obligations.OrSetsAccumulatorAndFlags := fun s =>
  ⟨orRows_eq ▸ orFamily.runs_registers s, orFamily.runs (x := .mem .hl) rfl s,
    fun n => orFamily.runs (x := .imm n) rfl s⟩

/-- Settles O33: XOR is the family of the exclusive-or. -/
theorem xorSetsAccumulatorAndFlags : Obligations.XorSetsAccumulatorAndFlags := fun s =>
  ⟨xorRows_eq ▸ xorFamily.runs_registers s, xorFamily.runs (x := .mem .hl) rfl s,
    fun n => xorFamily.runs (x := .imm n) rfl s⟩

end Sys2Proof
end

section
/-! SUPPORT. INC and DEC (41_incdec.md). The two byte operations have one shape, a `StepFamily`, and so have the two
word operations, a `PairFamily`: each says what its two members share, and gives encoding, cost and next state for
every operand. -/

open Sys2Proof Sys2Proof.Machine

namespace Sys2Proof.Machine

/-! ### The byte computations over exact numbers -/

theorem toNat_decByte (v : Byte) : (Spec.decByte v).toNat = (v.toNat + 255) % 256 :=
  Nat.mod_mod _ 256

/-- The wrapped predecessor is the predecessor modulo 256 (R141). -/
theorem sub_one_eq_decByte (v : Byte) : v - 1 = Spec.decByte v := by
  apply BitVec.eq_of_toNat_eq
  rw [toNat_decByte]
  bv_omega

end Sys2Proof.Machine

namespace Sys2Proof

/-- Settles O34: the model narrows the successor, and wraps the predecessor, which `sub_one_eq_decByte` relates to
the number. -/
theorem stepOfAByteComputesFlags : Obligations.StepOfAByteComputesFlags := by
  refine fun v f => ⟨?_, ?_⟩
  · simp only [inc8, Spec.incByte, Spec.incFlags, beq_zero_eq_decide, Bool.beq_eq_decide_eq (nibble v),
      low_eq_nibble, ofNat_mod_256, BitVec.toNat_ofNat, Nat.reducePow]
  · simp only [dec8, Spec.decFlags, beq_zero_eq_decide, Bool.beq_eq_decide_eq (nibble v), low_eq_nibble,
      sub_one_eq_decByte, toNat_decByte]

end Sys2Proof

namespace Sys2Proof.Machine

/-! ### The byte at HL -/

/-- Without a cell at HL the step fails (R64). -/
theorem stepMemHL_of_unbacked (g : Byte → Flags → Byte × Flags) {s : State} (h : Spec.unbacked (s.pair .hl) = true) :
    stepMemHL g s = s.fail (.invalidMutableAccess (s.pair .hl) s.pc) := by
  obtain ⟨-, fails⟩ | ⟨hcell, -⟩ := stepMemHL_cases g s
  · exact fails
  · rw [cellOf_of_unbacked h] at hcell
    cases hcell

/-- With a cell at HL the step answers the flags, PC and the write at HL (R143, R146). -/
theorem stepMemHL_of_backed (g : Byte → Flags → Byte × Flags) {s : State} (h : Spec.unbacked (s.pair .hl) = false) :
    stepMemHL g s = { s with
      f := (g (s.readByte (s.pair .hl)) s.f).2
      pc := s.pc + 1
      mem := (s.writeByte (s.pair .hl) (g (s.readByte (s.pair .hl)) s.f).1).mem } := by
  obtain ⟨hcell, -⟩ | ⟨-, writes⟩ := stepMemHL_cases g s
  · have := (cellOf_isSome_iff _).mpr h
    rw [hcell] at this
    cases this
  · exact writes

/-- What every address reads as after a write, as the statements spell it. -/
theorem State.readByte_writeByte_afterWrite (s : State) (a b : Word) (v : Byte) :
    (s.writeByte a v).readByte b = Spec.afterWrite s a v b := by
  simp only [State.readByte_writeByte_home, Spec.afterWrite, Bool.and_eq_true, beq_iff_eq]

/-- Where a term's effect is one write of `v` at `a` and otherwise the change to `u`, the instruction stores
`v` there. -/
theorem stores_of_reading {i : Instr} {t : Term} (hi : i.reading = .term t) {s u : State} {a : Word} {v : Byte}
    (h : termRun t s = { u with mem := (s.writeByte a v).mem }) :
    Spec.Stores i t.encode (termCost s.f t) s u a v := by
  obtain ⟨hencode, hcost, hexec⟩ := runs_of_reading hi s
  refine ⟨hencode, hcost, termRun t s, hexec, by rw [h], fun b => ?_⟩
  rw [h]
  exact s.readByte_writeByte_afterWrite a b v

/-! ### INC and DEC of a byte -/

/-- A data register as the statements read and write it (R20, R22). -/
def regCell (r : Reg8) : Spec.Cell8 := ⟨fun s => s.reg r, fun s v => s.setReg r v⟩

/-- The byte operation `k`, with the low opcode bits `z`, takes a byte to `result` of it and the flags to `flags`. -/
structure StepFamily (k : Dst8 → Term) (z : BitVec 3) (result : Byte → Byte) (flags : Byte → Flags → Flags) : Prop where
  encode_eq : ∀ d, (k d).encode = encodeStep z d
  cost_eq : ∀ f d, termCost f (k d) = stepCost d
  run_eq : ∀ d s, termRun (k d) s = stepRun (fun v f => (result v, flags v f)) d s
  reading_row : ∀ r, ((k (.reg r)).row 0 0).reading = .term (k (.reg r))

/-- The register rows of a byte operation: opcode, instruction, the register changed. -/
def stepRows (k : Dst8 → Term) (z : BitVec 3) : List (Byte × Instr × Spec.Cell8) :=
  [Reg8.b, .c, .d, .e, .h, .l, .a].map fun r => (opXYZ 0b00 r.code z, (k (.reg r)).row 0 0, regCell r)

section
variable {k : Dst8 → Term} {z : BitVec 3} {result : Byte → Byte} {flags : Byte → Flags → Flags}
  (fam : StepFamily k z result flags)
include fam

/-- R142 and R145 for one operation and every register. -/
theorem StepFamily.runs_registers (s : State) :
    ∀ row ∈ stepRows k z, Spec.Runs row.2.1 [row.1] 4 s
      { row.2.2.put s (result (row.2.2.get s)) with f := flags (row.2.2.get s) s.f, pc := s.pc + 1 } := by
  intro row hrow
  obtain ⟨r, -, rfl⟩ := List.mem_map.mp hrow
  have h := runs_of_reading (fam.reading_row r) s
  rw [fam.encode_eq, fam.cost_eq, fam.run_eq] at h
  rwa [stepRun, stepReg, State.advance, State.setReg_pc] at h

/-- R143 and R146 for one operation, where HL has no cell. -/
theorem StepFamily.exec_of_unbacked {i : Instr} (hi : i.reading = .term (k (.mem .hl))) {s : State}
    (h : Spec.unbacked (s.pair .hl) = true) :
    exec i s = .next { s with status := .failed (.invalidMutableAccess (s.pair .hl) s.pc) } := by
  rw [exec_of_reading, hi, readingRun, fam.run_eq, stepRun, stepMemHL_of_unbacked _ h, State.fail]

/-- R143 and R146 for one operation, where HL has a cell. -/
theorem StepFamily.stores_of_backed {i : Instr} (hi : i.reading = .term (k (.mem .hl))) {s : State}
    (h : Spec.unbacked (s.pair .hl) = false) :
    Spec.Stores i (encodeStep z (.mem .hl)) 12 s
      { s with f := flags (s.readByte (s.pair .hl)) s.f, pc := s.pc + 1 }
      (s.pair .hl) (result (s.readByte (s.pair .hl))) := by
  have hcost : termCost s.f (k (.mem .hl)) = 12 := fam.cost_eq _ _
  rw [← fam.encode_eq, ← hcost]
  exact stores_of_reading hi (by rw [fam.run_eq, stepRun, stepMemHL_of_backed _ h])

end

theorem incFamily : StepFamily .inc8 0b100 Spec.incByte Spec.incFlags where
  encode_eq _ := rfl
  cost_eq _ _ := rfl
  run_eq d s := congrArg (stepRun · d s) (funext₂ fun v f => (stepOfAByteComputesFlags v f).1)
  reading_row r := by cases r <;> rfl

theorem decFamily : StepFamily .dec8 0b101 Spec.decByte Spec.decFlags where
  encode_eq _ := rfl
  cost_eq _ _ := rfl
  run_eq d s := congrArg (stepRun · d s) (funext₂ fun v f => (stepOfAByteComputesFlags v f).2)
  reading_row r := by cases r <;> rfl

theorem incRows_eq : Spec.incRows = stepRows .inc8 0b100 := rfl

theorem decRows_eq : Spec.decRows = stepRows .dec8 0b101 := rfl

/-! ### INC and DEC of a word -/

/-- The word operation `k`, with the low opcode bits `low`, adds `w`; a predecessor adds 0xFFFF. -/
structure PairFamily (k : Reg16 → Term) (low : BitVec 4) (w : Word) : Prop where
  encode_eq : ∀ p, (k p).encode = [opXP 0b00 p.code low]
  cost_eq : ∀ f p, termCost f (k p) = 8
  run_eq : ∀ p s, termRun (k p) s = (s.setPair p (s.pair p + w)).advance 1
  reading_row : ∀ p, ((k p).row 0 0).reading = .term (k p)

/-- The rows of a word operation: opcode, instruction, the word register changed. -/
def pairRows (k : Reg16 → Term) (low : BitVec 4) : List (Byte × Instr × Spec.Cell16) :=
  Spec.wordCells.map fun cell => (opXP 0b00 cell.1.code low, (k cell.1).row 0 0, cell.2)

/-- R144 and R147 for one operation and every word register. -/
theorem PairFamily.runs {k : Reg16 → Term} {low : BitVec 4} {w : Word} (fam : PairFamily k low w) (s : State) :
    ∀ row ∈ pairRows k low, Spec.Runs row.2.1 [row.1] 8 s
      { row.2.2.put s ((row.2.2.get s + w.toNat) % 65536) with pc := s.pc + 1 } := by
  intro row hrow
  obtain ⟨⟨p, cell⟩, hcell, rfl⟩ := List.mem_map.mp hrow
  obtain ⟨hget, hput, -⟩ := pairsAreViewsOfTheirRegisters.1 (p, cell) hcell s (s.pair p + w)
  have h := runs_of_reading (fam.reading_row p) s
  rw [fam.encode_eq, fam.cost_eq, fam.run_eq, State.advance, State.setPair_pc, hput, BitVec.toNat_add, hget] at h
  exact h

theorem incPairFamily : PairFamily .inc16 0b0011 1 where
  encode_eq _ := rfl
  cost_eq _ _ := rfl
  run_eq _ _ := rfl
  reading_row p := by cases p <;> rfl

theorem decPairFamily : PairFamily .dec16 0b1011 0xFFFF where
  encode_eq _ := rfl
  cost_eq _ _ := rfl
  run_eq p s := congrArg (fun v => (s.setPair p v).advance 1) (BitVec.sub_eq_add_neg (s.pair p) 1)
  reading_row p := by cases p <;> rfl

theorem incPairRows_eq : Spec.incPairRows = pairRows .inc16 0b0011 := rfl

theorem decPairRows_eq : Spec.decPairRows = pairRows .dec16 0b1011 := rfl

end Sys2Proof.Machine

namespace Sys2Proof

/-- Settles O35: the register rows of the two byte operations. -/
theorem incAndDecOfARegister : Obligations.IncAndDecOfARegister := fun s =>
  ⟨incRows_eq ▸ incFamily.runs_registers s, decRows_eq ▸ decFamily.runs_registers s⟩

/-- Settles O36: the range is `Spec.unbacked`, where the byte operations fail, and elsewhere they store. -/
theorem incAndDecOfTheByteAtHL : Obligations.IncAndDecOfTheByteAtHL := by
  intro s
  split
  · next h =>
    have unbacked := (unbacked_iff _).mpr h
    exact ⟨incFamily.exec_of_unbacked rfl unbacked, decFamily.exec_of_unbacked rfl unbacked⟩
  · next h =>
    have backed := Bool.eq_false_iff.mpr (mt (unbacked_iff _).mp h)
    exact ⟨incFamily.stores_of_backed rfl backed, decFamily.stores_of_backed rfl backed⟩

/-- Settles O37: the rows of the two word operations, the predecessor as the sum with 65535. -/
theorem incAndDecOfAWord : Obligations.IncAndDecOfAWord := fun s =>
  ⟨incPairRows_eq ▸ incPairFamily.runs s, decPairRows_eq ▸ decPairFamily.runs s⟩

end Sys2Proof
end

section
/-! SUPPORT. The jumps (42_control.md): each changes PC alone, an absolute one to a word, a relative one to an exact sum
taken modulo 2^16; and the written words of each family (30_encoding.md section 7). -/

open Sys2Proof Sys2Proof.Machine

namespace Sys2Proof.Machine

/-! ### Words over exact numbers -/

/-- The word of two bytes is the number they join to (R21). -/
theorem wordOf_eq_join (hi lo : Byte) : wordOf hi lo = BitVec.ofNat 16 (Spec.join hi lo) := by
  rw [Spec.join, ← toNat_wordOf, BitVec.ofNat_toNat, BitVec.setWidth_eq]

/-- The bytes of a three-byte instruction are its opcode and its word, low byte first (R87). -/
theorem word3_eq (op : Byte) (nn : Word) : Spec.word3 op nn = op :: wordBytes nn := by
  rw [Spec.word3, wordBytes, hiByte_eq, loByte_eq]

/-- The wrapped sum with a sign-extended displacement is the exact signed sum modulo 2^16 (R86, R164). -/
theorem add_two_add_sext16 (w : Word) (e : Byte) :
    w + 2 + sext16 e = BitVec.ofInt 16 ((w.toNat : Int) + 2 + e.toInt) := by
  rw [BitVec.ofInt_add, BitVec.ofInt_add, BitVec.ofInt_natCast, BitVec.ofNat_toNat, BitVec.setWidth_eq, sext16,
    BitVec.signExtend]
  rfl

/-! ### Every jump -/

/-- The jumps are the terms of three forms. -/
theorem isJump_cases {i : Instr} (h : Spec.isJump i = true) :
    (∃ cc nn, i.reading = .term (.jp cc nn)) ∨ i.reading = .term .jpHL ∨ ∃ cc e, i.reading = .term (.jr cc e) := by
  unfold Spec.isJump at h
  split at h
  · next cc nn hi => exact .inl ⟨cc, nn, hi⟩
  · next hi => exact .inr (.inl hi)
  · next cc e hi => exact .inr (.inr ⟨cc, e, hi⟩)
  · cases h

/-- JP a16 and JP cc,a16 with any condition (R161, R162). -/
theorem runs_jp {i : Instr} {cc : Option Cond} {nn : Word} (hi : i.reading = .term (.jp cc nn)) (s : State) :
    Spec.Runs i (Term.jp cc nn).encode (if taken cc s.f then 16 else 12) s
      { s with pc := if taken cc s.f then nn else s.pc + 3 } := by
  rw [← jumpAbs_eq]
  exact runs_of_reading hi s

/-- JP HL (R163). -/
theorem runs_jpHL (s : State) :
    Spec.Runs .jpHL [0xE9] 4 s { s with pc := BitVec.ofNat 16 (Spec.join s.h s.l) } := by
  rw [← wordOf_eq_join]
  exact runs_of_reading (t := .jpHL) rfl s

/-- JR e8 and JR cc,e8 with any condition (R164, R165). -/
theorem runs_jr {i : Instr} {cc : Option Cond} {e : Byte} (hi : i.reading = .term (.jr cc e)) (s : State) :
    Spec.Runs i (Term.jr cc e).encode (if taken cc s.f then 12 else 8) s
      { s with pc := if taken cc s.f then BitVec.ofInt 16 ((s.pc.toNat : Int) + 2 + e.toInt) else s.pc + 2 } := by
  rw [← add_two_add_sext16, ← jumpRel_eq]
  exact runs_of_reading hi s

/-! ### The rows of the conditions -/

theorem jpRow_reading (cc : Cond) (nn : Word) :
    ((Term.jp (some cc) nn).row 0 nn).reading = .term (.jp (some cc) nn) := by
  cases cc <;> rfl

theorem jrRow_reading (cc : Cond) (e : Byte) :
    ((Term.jr (some cc) e).row e 0).reading = .term (.jr (some cc) e) := by
  cases cc <;> rfl

/-- R162 has one row for each condition: opcode, instruction, the condition on the flags. -/
theorem jpRows_eq : Spec.jpRows = [Cond.nz, .z, .nc, .c].map fun cc =>
    (opXYZ 0b11 (0b0#1 ++ cc.code) 0b010, fun nn => (Term.jp (some cc) nn).row 0 nn, holds cc) := rfl

/-- R165 has one row for each condition: opcode, instruction, the condition on the flags. -/
theorem jrRows_eq : Spec.jrRows = [Cond.nz, .z, .nc, .c].map fun cc =>
    (opXYZ 0b00 (0b1#1 ++ cc.code) 0b000, fun e => (Term.jr (some cc) e).row e 0, holds cc) := rfl

end Sys2Proof.Machine

namespace Sys2Proof

/-- Settles O38: the three forms of jump set PC and nothing else. -/
theorem jumpsChangeOnlyPc : Obligations.JumpsChangeOnlyPc := by
  refine ⟨fun f => ⟨rfl, rfl, rfl, rfl⟩, fun i s h => ?_⟩
  obtain ⟨cc, nn, hi⟩ | hi | ⟨cc, e, hi⟩ := isJump_cases h
  · obtain ⟨-, -, hexec⟩ := runs_jp hi s
    exact ⟨_, hexec⟩
  · exact ⟨s.pair .hl, by rw [exec_of_reading, hi]; rfl⟩
  · obtain ⟨-, -, hexec⟩ := runs_jr hi s
    exact ⟨_, hexec⟩

/-- Settles O39: `runs_jp` without a condition and with each, `runs_jpHL`, and the one row of a term (O6). -/
theorem absoluteJump : Obligations.AbsoluteJump := by
  intro s nn
  refine ⟨?_, fun row hrow => ?_, runs_jpHL s, fun i hi => ?_⟩
  · rw [word3_eq]
    exact runs_jp (cc := none) rfl s
  · rw [jpRows_eq] at hrow
    obtain ⟨cc, -, rfl⟩ := List.mem_map.mp hrow
    rw [word3_eq]
    exact runs_jp (jpRow_reading cc nn) s
  · obtain ⟨-, unique⟩ := wellFormedTermsAreTheTableRows .jpHL
    exact unique i .jpHL hi rfl

/-- Settles O40: `runs_jr` without a condition and with each. -/
theorem relativeJump : Obligations.RelativeJump := by
  refine fun s e => ⟨runs_jr (cc := none) rfl s, fun row hrow => ?_⟩
  rw [jrRows_eq] at hrow
  obtain ⟨cc, -, rfl⟩ := List.mem_map.mp hrow
  exact runs_jr (jrRow_reading cc e) s

/-- Settles O4: each word is looked up in the opcode map. -/
theorem writtenWordsDecode : Obligations.WrittenWordsDecode := by
  unfold Obligations.WrittenWordsDecode
  and_intros <;> decide

end Sys2Proof
end

section
/-! SUPPORT. The loads (43_loads.md). Every byte load into a register has one shape, `runs_load`, and every byte store
has one, `stores_store`: encoding, cost and next state for every operand. What the single forms add to them is the
post-modification of HL and the effective address as numbers. -/

open Sys2Proof Sys2Proof.Machine

namespace Sys2Proof.Machine

/-! ### The operand forms over exact numbers -/

/-- A wrapped sum written to a word register is the sum modulo 2^16 (R21). -/
theorem setPair_pair_add {cell : Reg16 × Spec.Cell16} (hcell : cell ∈ Spec.wordCells) (s : State) (w : Word) :
    s.setPair cell.1 (s.pair cell.1 + w) = cell.2.put s ((cell.2.get s + w.toNat) % 65536) := by
  obtain ⟨hget, hput, -⟩ := pairsAreViewsOfTheirRegisters.1 cell hcell s (s.pair cell.1 + w)
  rw [hput, BitVec.toNat_add, hget]

theorem post_hlInc (s : State) : post .hlInc s = Spec.pairHL.put s ((Spec.pairHL.get s + 1) % 65536) :=
  setPair_pair_add (cell := (.hl, Spec.pairHL)) (by simp [Spec.wordCells]) s 1

theorem post_hlDec (s : State) : post .hlDec s = Spec.pairHL.put s ((Spec.pairHL.get s + 65535) % 65536) :=
  (congrArg (s.setPair .hl) (BitVec.sub_eq_add_neg (s.pair .hl) 1)).trans
    (setPair_pair_add (cell := (.hl, Spec.pairHL)) (by simp [Spec.wordCells]) s 0xFFFF)

/-- The high-page address as a sum of numbers (R94). -/
theorem ea_highC (s : State) : ea .highC s = BitVec.ofNat 16 (0xFF00 + s.c.toNat) := by
  apply BitVec.eq_of_toNat_eq
  simp [ea, zext16]

/-! ### Every byte load -/

/-- LD r,x for every register and source: the register takes the byte, then HL is post-modified (R94). -/
theorem runs_load {i : Instr} {r : Reg8} {x : Src8} (hi : i.reading = .term (.ld8 (.reg r) x)) (s : State) :
    Spec.Runs i (encodeLd8 (.reg r) x) (loadCost (.reg r) x) s
      { postSrc x (s.setReg r (readSrc x s)) with pc := s.pc + srcLength x } := by
  obtain ⟨-, hpc, -⟩ := load8_frame (.reg r) x s
  have h := runs_of_reading hi s
  rwa [termRun, State.advance, hpc] at h

/-- The source of a well-formed store is a register or an immediate, so it post-modifies nothing. -/
theorem postSrc_of_ld8PairWf_store {m : Mem8} {x : Src8} (h : ld8PairWf (.mem m) x = true) (s : State) :
    postSrc x s = s := by
  cases x with
  | reg _ | imm _ => rfl
  | mem _ => cases m <;> cases h

/-- A write to memory and the post-modification of HL reach different parts of the state. -/
theorem post_writeByte (m : Mem8) (s : State) (a : Word) (v : Byte) :
    post m (s.writeByte a v) = { post m s with mem := (s.writeByte a v).mem } := by
  cases m <;> rfl

/-- LD (M),x for every memory operand and source: the byte is written at the effective address, and HL is post-modified
(R94). -/
theorem stores_store {i : Instr} {m : Mem8} {x : Src8} (hi : i.reading = .term (.ld8 (.mem m) x)) (s : State) :
    Spec.Stores i (encodeLd8 (.mem m) x) (loadCost (.mem m) x) s
      { post m s with pc := s.pc + loadLength (.mem m) x } (ea m s) (readSrc x s) := by
  refine stores_of_reading hi ?_
  obtain ⟨-, hpc, -⟩ := load8_frame (.mem m) x s
  rw [termRun, State.advance, hpc, load8, postSrc_of_ld8PairWf_store (wf_of_reading i _ hi), postDst, writeDst,
    post_writeByte]

/-! ### The rows of the registers -/

/-- The data registers in the order of their field codes (R82). -/
def dataRegs : List Reg8 := [.b, .c, .d, .e, .h, .l, .a]

/-- R180 has one row for each destination and source. -/
theorem ldRegRows_eq : Spec.ldRegRows = dataRegs.flatMap fun r => dataRegs.map fun q =>
    (opXYZ 0b01 r.code q.code, (Term.ld8 (.reg r) (.reg q)).row 0 0, regCell r, fun s => s.reg q) := rfl

/-- R181 has one row for each destination. -/
theorem ldFromHLRows_eq : Spec.ldFromHLRows = dataRegs.map fun r =>
    (opXYZ 0b01 r.code memHLCode, (Term.ld8 (.reg r) (.mem .hl)).row 0 0, regCell r) := rfl

/-- R182 has one row for each source. -/
theorem ldToHLRows_eq : Spec.ldToHLRows = dataRegs.map fun r =>
    (opXYZ 0b01 memHLCode r.code, (Term.ld8 (.mem .hl) (.reg r)).row 0 0, fun s => s.reg r) := rfl

/-- R183 has one row for each destination. -/
theorem ldImmRows_eq : Spec.ldImmRows = dataRegs.map fun r =>
    (opXYZ 0b00 r.code 0b110, fun n => (Term.ld8 (.reg r) (.imm n)).row n 0, regCell r) := rfl

/-- R197 has one row for each word register. -/
theorem ldWordRows_eq : Spec.ldWordRows = Spec.wordCells.map fun cell =>
    (opXP 0b00 cell.1.code 0b0001, fun nn => (Term.ld16 cell.1 nn).row 0 nn, cell.2) := rfl

theorem ldRegRow_reading (r q : Reg8) :
    ((Term.ld8 (.reg r) (.reg q)).row 0 0).reading = .term (.ld8 (.reg r) (.reg q)) := by
  cases r <;> cases q <;> rfl

theorem ldFromHLRow_reading (r : Reg8) :
    ((Term.ld8 (.reg r) (.mem .hl)).row 0 0).reading = .term (.ld8 (.reg r) (.mem .hl)) := by
  cases r <;> rfl

theorem ldToHLRow_reading (r : Reg8) :
    ((Term.ld8 (.mem .hl) (.reg r)).row 0 0).reading = .term (.ld8 (.mem .hl) (.reg r)) := by
  cases r <;> rfl

theorem ldImmRow_reading (r : Reg8) (n : Byte) :
    ((Term.ld8 (.reg r) (.imm n)).row n 0).reading = .term (.ld8 (.reg r) (.imm n)) := by
  cases r <;> rfl

theorem ldWordRow_reading (p : Reg16) (nn : Word) : ((Term.ld16 p nn).row 0 nn).reading = .term (.ld16 p nn) := by
  cases p <;> rfl

end Sys2Proof.Machine

namespace Sys2Proof

/-- Settles O43: the stores at HL from a register and from an immediate. -/
theorem storeAtHL : Obligations.StoreAtHL := by
  refine fun s n => ⟨fun row hrow => ?_, stores_store (m := .hl) (x := .imm n) rfl s⟩
  rw [ldToHLRows_eq] at hrow
  obtain ⟨r, -, rfl⟩ := List.mem_map.mp hrow
  exact stores_store (ldToHLRow_reading r) s

/-- Settles O45: the stores at BC and DE. -/
theorem storeAThroughBCAndDE : Obligations.StoreAThroughBCAndDE := fun s =>
  ⟨stores_store (m := .bc) (x := .reg .a) rfl s, stores_store (m := .de) (x := .reg .a) rfl s⟩

/-- Settles O46: the stores that post-modify HL, whose effective address is the old HL. -/
theorem storeAThroughHLWithPostModify : Obligations.StoreAThroughHLWithPostModify := by
  refine fun s => ⟨?_, ?_⟩
  · rw [← post_hlInc]
    exact stores_store (m := .hlInc) (x := .reg .a) rfl s
  · rw [← post_hlDec]
    exact stores_store (m := .hlDec) (x := .reg .a) rfl s

/-- Settles O47: the loads that post-modify HL, after A has the byte at the old HL. -/
theorem loadAThroughHLWithPostModify : Obligations.LoadAThroughHLWithPostModify := by
  refine fun s => ⟨?_, ?_⟩
  · rw [← post_hlInc]
    exact runs_load (r := .a) (x := .mem .hlInc) rfl s
  · rw [← post_hlDec]
    exact runs_load (r := .a) (x := .mem .hlDec) rfl s

/-- Settles O48: the store and the load at the high-page address, by `ea_highC`. -/
theorem highPageLoadAndStore : Obligations.HighPageLoadAndStore := by
  intro s
  rw [← ea_highC]
  exact ⟨stores_store (m := .highC) (x := .reg .a) rfl s, runs_load (r := .a) (x := .mem .highC) rfl s⟩

/-- Settles O49: the store and the load at an absolute address. -/
theorem absoluteLoadAndStore : Obligations.AbsoluteLoadAndStore := by
  intro s nn
  rw [word3_eq, word3_eq]
  exact ⟨stores_store (m := .abs nn) (x := .reg .a) rfl s, runs_load (r := .a) (x := .mem (.abs nn)) rfl s⟩

/-- Settles O50: the rows of the word registers, each written as a number (O11). -/
theorem loadWordImmediate : Obligations.LoadWordImmediate := by
  intro s nn row hrow
  rw [ldWordRows_eq] at hrow
  obtain ⟨⟨p, cell⟩, hcell, rfl⟩ := List.mem_map.mp hrow
  obtain ⟨-, hput, -⟩ := pairsAreViewsOfTheirRegisters.1 (p, cell) hcell s nn
  have h := runs_of_reading (ldWordRow_reading p nn) s
  rw [termRun, State.advance, State.setPair_pc, hput] at h
  rw [word3_eq]
  exact h

/-- Settles O41: the loads of a register from a register. -/
theorem loadRegisterFromRegister : Obligations.LoadRegisterFromRegister := by
  intro s row hrow
  rw [ldRegRows_eq] at hrow
  obtain ⟨r, -, hrow⟩ := List.mem_flatMap.mp hrow
  obtain ⟨q, -, rfl⟩ := List.mem_map.mp hrow
  exact runs_load (ldRegRow_reading r q) s

/-- Settles O42: the loads of a register from the byte at HL and from an immediate. -/
theorem loadRegisterFromHLOrImmediate : Obligations.LoadRegisterFromHLOrImmediate := by
  refine fun s n => ⟨fun row hrow => ?_, fun row hrow => ?_⟩
  · rw [ldFromHLRows_eq] at hrow
    obtain ⟨r, -, rfl⟩ := List.mem_map.mp hrow
    exact runs_load (ldFromHLRow_reading r) s
  · rw [ldImmRows_eq] at hrow
    obtain ⟨r, -, rfl⟩ := List.mem_map.mp hrow
    exact runs_load (ldImmRow_reading r n) s

/-- Settles O44: the loads of A from the bytes at BC and DE. -/
theorem loadAThroughBCAndDE : Obligations.LoadAThroughBCAndDE := fun s =>
  ⟨runs_load (r := .a) (x := .mem .bc) rfl s, runs_load (r := .a) (x := .mem .de) rfl s⟩

end Sys2Proof
end

section
/-! SUPPORT. The rotates and DI (44_rotate_system.md). A rotate's result is an exact sum, narrowed; and A with the carry
is a ring of nine bits, `ringBit`, which a left rotation turns by one place. -/

open Sys2Proof Sys2Proof.Machine

namespace Sys2Proof.Machine

/-! ### The rotates over exact numbers -/

/-- The left rotation doubles A, adds the carry, and carries out bit 7 (R220). -/
theorem rotateLeft_eq (v : Byte) (cin : Bool) : rotateLeft v cin =
    (BitVec.ofNat 8 ((v.toNat * 2 + cin.toNat) % 256), rotateFlags (decide (128 ≤ v.toNat))) := by
  refine Prod.ext (BitVec.eq_of_toNat_eq ?_) (congrArg rotateFlags (BitVec.msb_eq_decide v))
  have sum : (rotateLeft v cin).1.toNat = v.toNat % 128 * 2 + cin.toNat :=
    (BitVec.toNat_concat (v.extractLsb' 0 7) cin).trans (by simp)
  have := cin.toNat_lt
  rw [sum, BitVec.toNat_ofNat]
  omega

/-- The right rotation halves A, adds the carry with weight 128, and carries out bit 0 (R221). -/
theorem rotateRight_eq (v : Byte) (cin : Bool) : rotateRight v cin =
    (BitVec.ofNat 8 (cin.toNat * 128 + v.toNat / 2), rotateFlags (decide (v.toNat % 2 = 1))) := by
  refine Prod.ext (BitVec.eq_of_toNat_eq ?_) (congrArg rotateFlags (Nat.testBit_zero v.toNat))
  have half : (v.extractLsb' 1 7).toNat = v.toNat / 2 := by
    have := v.isLt
    rw [BitVec.extractLsb'_toNat, Nat.shiftRight_one]
    omega
  have sum : (rotateRight v cin).1.toNat = cin.toNat * 128 + v.toNat / 2 := by
    rw [rotateRight, BitVec.toNat_append, BitVec.toNat_ofBool, Nat.shiftLeft_eq, Nat.mul_comm,
      ← Nat.two_pow_add_eq_or_of_lt (BitVec.isLt _), half, Nat.mul_comm]
  rw [BitVec.toNat_ofNat, ← sum, Nat.mod_eq_of_lt (BitVec.isLt _)]

/-! ### The ring of nine bits -/

/-- The bits of the left rotation: the carry enters at bit 0, and the others move up (R220). -/
theorem getLsbD_rotateLeft (v : Byte) (cin : Bool) (i : Nat) :
    (rotateLeft v cin).1.getLsbD i = if i = 0 then cin else (decide (i < 8) && v.getLsbD (i - 1)) := by
  refine (BitVec.getLsbD_concat (v.extractLsb' 0 7) cin i).trans (ite_congr rfl (fun _ => rfl) fun hi => ?_)
  have below : i - 1 < 7 ↔ i < 8 := by omega
  rw [BitVec.getLsbD_extractLsb', Nat.zero_add, decide_eq_decide.mpr below]

/-- The nine bits that the rotates turn: bit `i` of A at place `i`, the carry at place 8. -/
def ringBit (p : Byte × Bool) (i : Fin 9) : Bool := if i = 8 then p.2 else p.1.getLsbD i

theorem ringBit_injective : Function.Injective ringBit := by
  intro p q h
  refine Prod.ext (BitVec.eq_of_getLsbD_eq fun i hi => ?_) (congrFun h 8)
  have inByte : (⟨i, by omega⟩ : Fin 9) ≠ 8 := Fin.ne_of_lt hi
  have hbit := congrFun h ⟨i, by omega⟩
  rwa [ringBit, ringBit, if_neg inByte, if_neg inByte] at hbit

/-- A ring of nine bits turned by one place: each place takes the bit of the one before it, place 0 that of place 8. -/
def turnRing (ring : Fin 9 → Bool) (i : Fin 9) : Bool := ring (i - 1)

/-- The left rotation turns the ring. -/
theorem ringBit_turnLeft : Function.Semiconj ringBit Spec.turnLeft turnRing := by
  intro p
  funext i
  simp only [turnRing, ringBit, Spec.turnLeft, getLsbD_rotateLeft]
  fin_cases i <;> rfl

/-- Nine turns bring every bit back to its place. -/
theorem turnRing_nine (ring : Fin 9 → Bool) : turnRing^[9] ring = ring := by
  funext i
  fin_cases i <;> rfl

theorem turnLeft_nine (p : Byte × Bool) : Spec.turnLeft^[9] p = p :=
  ringBit_injective ((ringBit_turnLeft.iterate_right 9 p).trans (turnRing_nine (ringBit p)))

/-! ### The instructions -/

/-- RLA (R220). -/
theorem runs_rla (s : State) :
    Spec.Runs .rla [0x17] 4 s
      { s with
        a := BitVec.ofNat 8 ((s.a.toNat * 2 + s.f.c.toNat) % 256)
        f := rotateFlags (decide (128 ≤ s.a.toNat))
        pc := s.pc + 1 } := by
  have h := runs_of_reading (i := .rla) (t := .rla) rfl s
  rwa [termRun, rotateLeft_eq] at h

/-- RRA (R221). -/
theorem runs_rra (s : State) :
    Spec.Runs .rra [0x1F] 4 s
      { s with
        a := BitVec.ofNat 8 (s.f.c.toNat * 128 + s.a.toNat / 2)
        f := rotateFlags (decide (s.a.toNat % 2 = 1))
        pc := s.pc + 1 } := by
  have h := runs_of_reading (i := .rra) (t := .rra) rfl s
  rwa [termRun, rotateRight_eq] at h

end Sys2Proof.Machine

namespace Sys2Proof

/-- Settles O51: `runs_rla` and `runs_rra`, and nine turns of the ring of A and the carry. -/
theorem rotatesThroughCarry : Obligations.RotatesThroughCarry :=
  ⟨fun s => ⟨runs_rla s, runs_rra s⟩, turnLeft_nine⟩

/-- Settles O52: DI is its term's effect, which clears IME and advances PC. -/
theorem diClearsIme : Obligations.DiClearsIme := fun s => runs_of_reading (t := .di) rfl s

end Sys2Proof
end

section
/-! SUPPORT. Failures (60_exceptions.md). `Raises` lists the failures an instruction can take; it takes them
wherever it raises them, and else keeps the fault status. The instruction fetched is encoded at PC, so its failure
is true of the state it stands in. -/

open Sys2Proof Sys2Proof.Machine

namespace Sys2Proof.Machine

/-! ### The failures of an instruction -/

/-- An address has no mutable byte exactly where it has no cell (R64). -/
theorem getMutableByte_eq_none_iff (a : Word) : getMutableByte a = none ↔ Spec.unbacked a = true := by
  rw [getMutableByte, ← Option.not_isSome_iff_eq_none, cellOf_isSome_iff, Bool.not_eq_false]

/-- `i` takes the failure `f` in `s`: an undecoded opcode always, INC (HL) and DEC (HL) where HL has no cell (R241 to
R243). -/
inductive Raises (s : State) : Instr → Fault → Prop
  | illegal (op : Byte) : Raises s (.illegal op) (.illegalOpcode s.pc op)
  | unimplemented (op : Byte) : Raises s (.unimplemented op) (.unimplementedOpcode s.pc op)
  | incMemHL (h : getMutableByte (s.pair .hl) = none) : Raises s .incMemHL (.invalidMutableAccess (s.pair .hl) s.pc)
  | decMemHL (h : getMutableByte (s.pair .hl) = none) : Raises s .decMemHL (.invalidMutableAccess (s.pair .hl) s.pc)

/-- The failure that an instruction raises is what it records, and nothing else changes (R245). -/
theorem Raises.exec_eq {s : State} {i : Instr} {f : Fault} (h : Raises s i f) : exec i s = .next (s.fail f) := by
  cases h with
  | illegal op | unimplemented op => rfl
  | incMemHL hcell => exact incFamily.exec_of_unbacked rfl ((getMutableByte_eq_none_iff _).mp hcell)
  | decMemHL hcell => exact decFamily.exec_of_unbacked rfl ((getMutableByte_eq_none_iff _).mp hcell)

/-- A well-formed INC or DEC of a byte keeps the fault status, or is the one of the byte at HL and fails for want of a
cell there (R243). -/
theorem stepRun_status_or_fail (g : Byte → Flags → Byte × Flags) {d : Dst8} (hwf : d.stepWf = true) (s : State) :
    (stepRun g d s).status = s.status ∨
      (d = .mem .hl ∧ getMutableByte (s.pair .hl) = none ∧
        stepRun g d s = s.fail (.invalidMutableAccess (s.pair .hl) s.pc)) := by
  cases d with
  | reg r => exact .inl (State.setReg_status s r _)
  | mem m =>
    obtain ⟨hcell, fails⟩ | ⟨-, writes⟩ := stepMemHL_cases g s
    · exact .inr ⟨congrArg Dst8.mem (eq_hl_of_stepWf hwf), hcell, fails⟩
    · exact .inl (by rw [stepRun, writes])

/-- A well-formed term keeps the fault status, or is INC (HL) or DEC (HL) and fails for want of a cell at HL (R243). -/
theorem termRun_status_or_fail {t : Term} (hwf : t.wf = true) (s : State) :
    (termRun t s).status = s.status ∨
      ((t = .inc8 (.mem .hl) ∨ t = .dec8 (.mem .hl)) ∧ getMutableByte (s.pair .hl) = none ∧
        termRun t s = s.fail (.invalidMutableAccess (s.pair .hl) s.pc)) := by
  cases t with
  | inc8 d => exact (stepRun_status_or_fail inc8 hwf s).imp_right fun ⟨hd, fails⟩ => ⟨.inl (congrArg _ hd), fails⟩
  | dec8 d => exact (stepRun_status_or_fail dec8 hwf s).imp_right fun ⟨hd, fails⟩ => ⟨.inr (congrArg _ hd), fails⟩
  | inc16 p | dec16 p | ld16 p _ => exact .inl (State.setPair_status s p _)
  | ld8 d x =>
    obtain ⟨-, -, -, -, kept⟩ := load8_frame d x s
    exact .inl kept
  | jp cc nn => exact .inl (by rw [termRun, jumpAbs_eq])
  | jr cc e => exact .inl (by rw [termRun, jumpRel_eq])
  | nop | add _ | adc _ | cp _ | or _ | xor _ | jpHL | rla | rra | di => exact .inl rfl

/-- An instruction keeps the fault status, or takes a failure it raises and changes nothing else (R240, R245). -/
theorem readingRun_status_or_raises (i : Instr) (s : State) :
    (readingRun i.reading s).status = s.status ∨ ∃ f, Raises s i f ∧ readingRun i.reading s = s.fail f := by
  cases hi : i.reading with
  | illegal op =>
    obtain rfl : i = .illegal op := by cases i <;> cases hi; rfl
    exact .inr ⟨_, .illegal op, rfl⟩
  | unimplemented op =>
    obtain rfl : i = .unimplemented op := by cases i <;> cases hi; rfl
    exact .inr ⟨_, .unimplemented op, rfl⟩
  | term t =>
    have row {j : Instr} : j.reading = .term t → i = j := (wellFormedTermsAreTheTableRows t).2 i j hi
    obtain kept | ⟨rfl | rfl, hcell, fails⟩ := termRun_status_or_fail (wf_of_reading i t hi) s
    · exact .inl kept
    · exact .inr ⟨_, row (j := .incMemHL) rfl ▸ .incMemHL hcell, fails⟩
    · exact .inr ⟨_, row (j := .decMemHL) rfl ▸ .decMemHL hcell, fails⟩

/-- An instruction that leaves a running state failed has raised the failure, and changed the status alone. -/
theorem raises_of_failed {i : Instr} {s t : State} {f : Fault} (hs : s.status = .running)
    (h : readingRun i.reading s = t) (ht : t.status = .failed f) : Raises s i f ∧ t = s.fail f := by
  subst h
  obtain kept | ⟨x, raised, hx⟩ := readingRun_status_or_raises i s
  · rw [kept, hs] at ht
    cases ht
  · rw [hx] at ht ⊢
    cases ht
    exact ⟨raised, rfl⟩

/-! ### The bytes at PC -/

/-- The instruction fetched is well formed, as everything that decodes is (O2). -/
theorem fetch_wf (s : State) : s.fetch.wf = true := by
  obtain ⟨rest, h⟩ := decodeBytes_at_pc s
  exact (encodeOfDecodeIsIdentity _ _ rest h).1

/-- The byte at PC is the opcode of the instruction fetched (O2). -/
theorem opcode_of_encode_fetch {s : State} {op : Byte} (henc : encode s.fetch = [op]) : s.opcode = op := by
  obtain ⟨rest, h⟩ := decodeBytes_at_pc s
  have hread := (encodeOfDecodeIsIdentity _ _ rest h).2
  rw [henc] at hread
  exact (List.cons.inj hread).1.symm

/-- A failure that the fetched instruction raises is precise in the state that records it: the instruction is encoded
in the opcode byte, which is still at PC (R245). -/
theorem Raises.failurePrecise {s : State} {f : Fault} (h : Raises s s.fetch f) : FailurePrecise (s.fail f) := by
  have hwf := fetch_wf s
  have hop {op : Byte} : encode s.fetch = [op] → s.opcode = op := opcode_of_encode_fetch
  generalize s.fetch = i at h hwf hop
  cases h with
  | illegal op => exact ⟨rfl, hop rfl, List.contains_iff_mem.mp hwf⟩
  | unimplemented op => exact ⟨rfl, hop rfl, List.contains_iff_mem.mp hwf⟩
  | incMemHL hcell => exact ⟨rfl, rfl, hcell, .inl (hop rfl)⟩
  | decMemHL hcell => exact ⟨rfl, rfl, hcell, .inr (hop rfl)⟩

/-! ### The step that fails, and the steps after it -/

/-- A step from a failed state answers the failure again (R246). -/
theorem step_of_failed {s : State} {f : Fault} (h : s.status = .failed f) : step s = .fault f := by
  rw [step, h]

/-- A host step from a failed state leaves the state (R246). -/
theorem afterStep_of_failed {s : State} {f : Fault} (h : s.status = .failed f) : s.afterStep = s := by
  rw [State.afterStep, step_of_failed h]

/-- No number of host steps changes a failed state (R246). -/
theorem hostSteps_of_failed {s : State} {f : Fault} (h : s.status = .failed f) (n : Nat) : Spec.hostSteps n s = s := by
  induction n with
  | zero => rfl
  | succ n ih => rwa [Spec.hostSteps, HostMove.apply, afterStep_of_failed h]

/-- Where the fetched instruction raises a failure, the step records it and returns it, and the next step answers it
again. -/
theorem step_of_raises {s : State} {f : Fault} (hs : s.status = .running) (h : Raises s s.fetch f) :
    step s = .next (s.fail f) ∧ stepResult s = some (.failure f) ∧ ∀ t, step s = .next t → step t = .fault f := by
  have hstep : step s = .next (s.fail f) := by rw [step, hs, h.exec_eq]
  refine ⟨hstep, stepResult_of_failed hstep rfl, fun t ht => ?_⟩
  obtain rfl := Host.Outcome.next.inj (hstep.symm.trans ht)
  exact step_of_failed rfl

end Sys2Proof.Machine

namespace Sys2Proof

/-- Settles O58: a failing step took a failure that the fetched instruction raises, which is precise. -/
theorem stepKeepsFailuresPrecise : Obligations.StepKeepsFailuresPrecise := by
  intro s t _ h
  obtain ⟨hs, hrun⟩ := (step_eq_next_iff s t).mp h
  cases ht : t.status with
  | running => exact failurePrecise_of_running ht
  | failed f =>
    obtain ⟨raised, rfl⟩ := raises_of_failed hs hrun ht
    exact raised.failurePrecise

/-- Settles O8: every instruction runs what it reads as, and a step returns a cost or the failure (O9). -/
theorem everyInstructionAnswersANextState : Obligations.EveryInstructionAnswersANextState := by
  refine ⟨fun i s => ⟨_, exec_of_reading i s⟩, fun s hs => ?_⟩
  have hstep := (step_eq_next_iff s _).mpr ⟨hs, rfl⟩
  obtain ⟨onSuccess, onFailure⟩ := stepReturnsCyclesOrTheFailure s _ hs hstep
  refine ⟨⟨_, hstep⟩, ?_⟩
  cases ht : (readingRun s.fetch.reading s).status with
  | running =>
    obtain ⟨c, -, returned⟩ := onSuccess ht
    rw [returned, Option.isSome_some]
  | failed f => rw [onFailure f ht, Option.isSome_some]

/-- Settles O54: of the failures an instruction raises, the two with an address are those of INC (HL) and DEC (HL). -/
theorem onlyReadModifyWriteRaisesInvalidAccess : Obligations.OnlyReadModifyWriteRaisesInvalidAccess := by
  refine ⟨fun a => (getMutableByte_eq_none_iff a).trans (unbacked_iff a), fun i s t addr pc hs h ht => ?_⟩
  obtain ⟨raised, rfl⟩ := raises_of_failed hs ((exec_eq_next_iff i s t).mp h) ht
  cases raised with
  | incMemHL hcell => exact ⟨.inl rfl, rfl, hcell, rfl, rfl, rfl⟩
  | decMemHL hcell => exact ⟨.inr rfl, rfl, hcell, rfl, rfl, rfl⟩

/-- Settles O55: the failing instruction changed the status alone, and its failure is what the step returns. -/
theorem failingStepChangesOnlyTheStatus : Obligations.FailingStepChangesOnlyTheStatus := by
  intro s t f hs h ht
  obtain ⟨-, hrun⟩ := (step_eq_next_iff s t).mp h
  exact ⟨(raises_of_failed hs hrun ht).2, stepResult_of_failed h ht⟩

/-- Settles O56: a step from a failed state answers the failure, so the host's steps change nothing. -/
theorem failureIsTerminal : Obligations.FailureIsTerminal := fun s f h =>
  ⟨step_of_failed h, by rw [stepResult, h], hostSteps_of_failed h⟩

/-- Settles O53: an undecoded opcode is fetched as the instruction that raises its failure. -/
theorem undecodedOpcodesRecordTheirFailure : Obligations.UndecodedOpcodesRecordTheirFailure := by
  refine ⟨fun op s => ⟨(Raises.illegal op).exec_eq, (Raises.unimplemented op).exec_eq, rfl, rfl⟩,
    fun s hs => ⟨fun hop => ?_, fun hop => ?_⟩⟩
  · have hfetch : s.fetch = .illegal s.opcode := by rw [State.fetch, hop, Entry.instr]
    exact step_of_raises hs (hfetch ▸ .illegal s.opcode)
  · have hfetch : s.fetch = .unimplemented s.opcode := by rw [State.fetch, hop, Entry.instr]
    exact step_of_raises hs (hfetch ▸ .unimplemented s.opcode)

end Sys2Proof
end

section
/-! SUPPORT. What each host move does to memory (R278): every one keeps the canonical form. -/

open Sys2Proof Sys2Proof.Machine

namespace Sys2Proof.Machine

variable {s : State}

/-- A load clears ROM and copies the bytes into it (R65). -/
theorem memoryCanonical_load (bytes : List Byte) (h : MemoryCanonical s) : MemoryCanonical (s.load bytes) :=
  Memory.wf_loadFrom bytes 0 _ (Memory.wf_clearRom s.mem h)

/-- A write by the host is one `write_byte` (R63). -/
theorem memoryCanonical_writeByte (a : Word) (v : Byte) (h : MemoryCanonical s) :
    MemoryCanonical (s.writeByte a v) :=
  Memory.wf_writeByte Config.romWrites s.mem a v h

/-- A call of `step` leaves the next state where there is one, and a failed state as it was (R246). -/
theorem memoryCanonical_afterStep (h : MemoryCanonical s) : MemoryCanonical s.afterStep := by
  unfold State.afterStep
  split
  · next t hstep => exact stepKeepsMemoryCanonical s t h hstep
  · exact h
  · exact h

/-- Bytes placed where they are fetched, at PC or at the entry point, are stored in homes. -/
theorem memoryCanonical_withFetchBytes (bytes : List Byte) (h : MemoryCanonical s) :
    MemoryCanonical (s.withFetchBytes bytes) :=
  Memory.wf_place bytes _ s.mem h

end Sys2Proof.Machine

namespace Sys2Proof

/-- Settles O60, move by move: a reset is canonical whatever was there before, a read changes nothing, and the other
moves keep the form. -/
theorem hostMovesKeepMemoryCanonical : Obligations.HostMovesKeepMemoryCanonical := by
  refine ⟨fun move s h => ?_, fun s nbits w h => memoryCanonical_withFetchBytes (tableWordBytes nbits w) h⟩
  cases move with
  | reset draw io => exact memoryCanonical_resetWith draw io
  | load bytes => exact memoryCanonical_load bytes h
  | step => exact memoryCanonical_afterStep h
  | readByte a => exact h
  | writeByte a v => exact memoryCanonical_writeByte a v h

end Sys2Proof
end
